-- ==== Sys2Proof/Word.lean ====
section
/-!
DEFINITION. The word types of SHTCC (00_scope.md R6: registers and command words of 32 bits, data bytes of 8,
raw codes of 16, the operand register ARG of 24).
-/
namespace Sys2Proof

/-- A frame byte, a CRC byte, the accumulator: 8 bits (00_scope.md R6). -/
abbrev Byte := BitVec 8

/-- A raw code or a status word of the sensor: 16 bits, unsigned (00_scope.md R6). -/
abbrev Raw := BitVec 16

/-- A register value or a command word: 32 bits (00_scope.md R6). -/
abbrev Word := BitVec 32

end Sys2Proof
end

