-- ==== Sys2Proof/Syntax.lean ====
section
/-!
DEFINITION. The command set: one constructor per row of spec/opcode_table.json, the sensor family a command selects, the
fields of a command word, and the causes an illegal word has.
-/
namespace Sys2Proof

/-- The two sensor families (00_scope.md R2): A is SHT2x, B is SHT3x. FAM = 0 selects A, FAM = 1 selects B (30_encoding.md R71). -/
inductive Family where
  | A
  | B
deriving DecidableEq, Repr

/-- The eleven commands (30_encoding.md R74), with the operands R77 passes to each. The operand bytes are in frame order. -/
inductive Instr where
  /-- CRCINIT.f (40_crc.md R105). -/
  | crcinit (fam : Family)
  /-- CRCBYTE b (40_crc.md R106). -/
  | crcbyte (b : Byte)
  /-- CRCPAIR.f d0, d1 (40_crc.md R107). -/
  | crcpair (fam : Family) (d0 d1 : Byte)
  /-- CRCCMP c (40_crc.md R108). -/
  | crccmp (c : Byte)
  /-- CHK3.f d0, d1, c (42_frame.md R142). -/
  | chk3 (fam : Family) (d0 d1 c : Byte)
  /-- CONVT.f d0, d1, c (42_frame.md R143). -/
  | convt (fam : Family) (d0 d1 c : Byte)
  /-- CONVH.f d0, d1, c (42_frame.md R144). -/
  | convh (fam : Family) (d0 d1 c : Byte)
  /-- CONVTH.B h0, h1, hc: frame bytes 3 to 5; bytes 0 to 2 are in ARG (42_frame.md R145). Family B only. -/
  | convth (h0 h1 hc : Byte)
  /-- HTRSTAT.B s0, s1, c (42_frame.md R146). Family B only. -/
  | htrstat (s0 s1 c : Byte)
  /-- RAWT.f r, with r = word16(r0, r1) (41_convert.md R129). -/
  | rawt (fam : Family) (r0 r1 : Byte)
  /-- RAWH.f r, with r = word16(r0, r1) (41_convert.md R130). -/
  | rawh (fam : Family) (r0 r1 : Byte)
deriving DecidableEq, Repr

/-- The row of spec/opcode_table.json a command belongs to. -/
def Instr.mnemonic : Instr → String
  | .crcinit _ => "CRCINIT"
  | .crcbyte _ => "CRCBYTE"
  | .crcpair _ _ _ => "CRCPAIR"
  | .crccmp _ => "CRCCMP"
  | .chk3 _ _ _ _ => "CHK3"
  | .convt _ _ _ _ => "CONVT"
  | .convh _ _ _ _ => "CONVH"
  | .convth _ _ _ => "CONVTH"
  | .htrstat _ _ _ => "HTRSTAT"
  | .rawt _ _ _ => "RAWT"
  | .rawh _ _ _ => "RAWH"

/-- The result commands (10_state.md R33): those that rewrite the result group. -/
def Instr.isResult : Instr → Bool
  | .crcinit _ => false
  | .crcbyte _ => false
  | .crcpair _ _ _ => false
  | .crccmp _ => false
  | .chk3 _ _ _ _ => true
  | .convt _ _ _ _ => true
  | .convh _ _ _ _ => true
  | .convth _ _ _ => true
  | .htrstat _ _ _ => true
  | .rawt _ _ _ => true
  | .rawh _ _ _ => true

/-- The six fields of a command word (30_encoding.md R71), before any of them is checked. -/
structure CommandFields where
  op  : BitVec 4
  fam : BitVec 1
  rsv : BitVec 3
  b0  : Byte
  b1  : Byte
  b2  : Byte
deriving DecidableEq, Repr

/-- The causes of an illegal command (60_exceptions.md R162), in their order of priority (R163). -/
inductive Cause where
  /-- Cause 1: OP = 0x0 or OP in 0xC..0xF. -/
  | reservedOpcode
  /-- Cause 2: RSV or another must-be-zero field is nonzero. -/
  | reservedField
  /-- Cause 3: CONVTH or HTRSTAT with FAM = 0. -/
  | familyUnsupported
deriving DecidableEq, Repr

/-- What decoding answers: exactly one command, or illegal with exactly one cause (30_encoding.md R77). -/
inductive Decoded where
  | command (i : Instr)
  | illegal (c : Cause)
deriving DecidableEq, Repr

end Sys2Proof
end

