-- ==== Sys2Proof/WellFormed.lean ====
section
/-!
DEFINITION. Well-formed command words, said twice and apart from the decoder: as the checks of 30_encoding.md R75 and R76
on the fields, and as the rows of spec/opcode_table.json (a match and a mask each). An `Instr` has only operands that the
encoding admits (bytes and a family), so every `Instr` is well formed: what can be ill formed is a word, or its fields.
-/
namespace Sys2Proof

/-- OP is one of the eleven opcodes of 30_encoding.md R74; 0x0 and 0xC to 0xF are reserved (R76). -/
def CommandFields.opcodeDefined (f : CommandFields) : Bool :=
  1 ≤ f.op.toNat && f.op.toNat ≤ 11

/-- Every must-be-zero field of the opcode is zero (30_encoding.md R75): RSV always; B0, B1 and B2 of CRCINIT; FAM, B0 and
B1 of CRCBYTE and CRCCMP; B2 of CRCPAIR, RAWT and RAWH. -/
def CommandFields.reservedZero (f : CommandFields) : Bool :=
  f.rsv.toNat == 0 &&
  (f.op.toNat != 1 || (f.b0.toNat == 0 && f.b1.toNat == 0 && f.b2.toNat == 0)) &&
  (!(f.op.toNat == 2 || f.op.toNat == 4) || (f.fam.toNat == 0 && f.b0.toNat == 0 && f.b1.toNat == 0)) &&
  (!(f.op.toNat == 3 || f.op.toNat == 10 || f.op.toNat == 11) || f.b2.toNat == 0)

/-- CONVTH and HTRSTAT exist for family B only (30_encoding.md R76). -/
def CommandFields.familySupported (f : CommandFields) : Bool :=
  !(f.op.toNat == 8 || f.op.toNat == 9) || f.fam.toNat == 1

/-- The fields of a legal command word (30_encoding.md R74 to R76). -/
def CommandFields.wellFormed (f : CommandFields) : Bool :=
  f.opcodeDefined && f.reservedZero && f.familySupported

/-- One row of spec/opcode_table.json: a word belongs to it when it agrees with `pattern` on the bits of `mask`. -/
structure TableRow where
  mnemonic : String
  pattern  : Word
  mask     : Word
deriving DecidableEq, Repr

def TableRow.fits (r : TableRow) (w : Word) : Bool := w &&& r.mask == r.pattern

/-- spec/opcode_table.json, row by row, with its "match" and "mask". -/
def opcodeTable : List TableRow :=
  [ ⟨"CRCINIT", 0x10000000, 0xF7FFFFFF⟩,
    ⟨"CRCBYTE", 0x20000000, 0xFFFFFF00⟩,
    ⟨"CRCPAIR", 0x30000000, 0xF70000FF⟩,
    ⟨"CRCCMP",  0x40000000, 0xFFFFFF00⟩,
    ⟨"CHK3",    0x50000000, 0xF7000000⟩,
    ⟨"CONVT",   0x60000000, 0xF7000000⟩,
    ⟨"CONVH",   0x70000000, 0xF7000000⟩,
    ⟨"CONVTH",  0x88000000, 0xFF000000⟩,
    ⟨"HTRSTAT", 0x98000000, 0xFF000000⟩,
    ⟨"RAWT",    0xA0000000, 0xF70000FF⟩,
    ⟨"RAWH",    0xB0000000, 0xF70000FF⟩ ]

/-- A word that some row of the opcode table fits. -/
def wellFormedWord (w : Word) : Bool := opcodeTable.any fun r => r.fits w

end Sys2Proof
end

