-- ==== Sys2Proof/Decode.lean ====
section
/-!
DEFINITION. Decoding a command word (30_encoding.md R77) and encoding a command (R73). Decoding is total: a word is one
command or illegal with one cause.
-/
namespace Sys2Proof

/-- The fields of a word (30_encoding.md R71). -/
def CommandFields.ofWord (w : Word) : CommandFields where
  op  := w.extractLsb' 28 4
  fam := w.extractLsb' 27 1
  rsv := w.extractLsb' 24 3
  b0  := w.extractLsb' 16 8
  b1  := w.extractLsb' 8 8
  b2  := w.extractLsb' 0 8

/-- The word that holds the fields, OP in the top bits (30_encoding.md R71). -/
def CommandFields.toWord (f : CommandFields) : Word :=
  f.op ++ f.fam ++ f.rsv ++ f.b0 ++ f.b1 ++ f.b2

/-- The family the FAM bit selects (30_encoding.md R71). -/
def Family.ofBit (f : BitVec 1) : Family := if f = 0 then .A else .B

/-- The FAM bit of a family (30_encoding.md R71). -/
def Family.bit : Family → BitVec 1
  | .A => 0
  | .B => 1

/-- The command of an opcode whose checks have all passed: the case of 30_encoding.md R77. -/
def commandOf (f : CommandFields) : Decoded :=
  if f.op = 0x1 then .command (.crcinit (.ofBit f.fam))
  else if f.op = 0x2 then .command (.crcbyte f.b2)
  else if f.op = 0x3 then .command (.crcpair (.ofBit f.fam) f.b0 f.b1)
  else if f.op = 0x4 then .command (.crccmp f.b2)
  else if f.op = 0x5 then .command (.chk3 (.ofBit f.fam) f.b0 f.b1 f.b2)
  else if f.op = 0x6 then .command (.convt (.ofBit f.fam) f.b0 f.b1 f.b2)
  else if f.op = 0x7 then .command (.convh (.ofBit f.fam) f.b0 f.b1 f.b2)
  else if f.op = 0x8 then .command (.convth f.b0 f.b1 f.b2)
  else if f.op = 0x9 then .command (.htrstat f.b0 f.b1 f.b2)
  else if f.op = 0xA then .command (.rawt (.ofBit f.fam) f.b0 f.b1)
  else if f.op = 0xB then .command (.rawh (.ofBit f.fam) f.b0 f.b1)
  else .illegal .reservedOpcode

/-- The checks of 30_encoding.md R77, in the order written there, and then the case on OP. -/
def decodeFields (f : CommandFields) : Decoded :=
  if f.op = 0x0 ∨ 0xC ≤ f.op then .illegal .reservedOpcode
  else if f.rsv ≠ 0 then .illegal .reservedField
  else if f.op = 0x1 ∧ (f.b0 ≠ 0 ∨ f.b1 ≠ 0 ∨ f.b2 ≠ 0) then .illegal .reservedField
  else if (f.op = 0x2 ∨ f.op = 0x4) ∧ (f.fam ≠ 0 ∨ f.b0 ≠ 0 ∨ f.b1 ≠ 0) then .illegal .reservedField
  else if (f.op = 0x3 ∨ f.op = 0xA ∨ f.op = 0xB) ∧ f.b2 ≠ 0 then .illegal .reservedField
  else if (f.op = 0x8 ∨ f.op = 0x9) ∧ f.fam = 0 then .illegal .familyUnsupported
  else commandOf f

/-- Decoding a command word: the decode half of execute(w) (30_encoding.md R77). -/
def decode (w : Word) : Decoded := decodeFields (.ofWord w)

/-- The fields of a command (30_encoding.md R74): an unused field is zero, FAM is 1 for CONVTH and HTRSTAT. -/
def Instr.fields : Instr → CommandFields
  | .crcinit fam       => ⟨0x1, fam.bit, 0, 0, 0, 0⟩
  | .crcbyte b         => ⟨0x2, 0, 0, 0, 0, b⟩
  | .crcpair fam d0 d1 => ⟨0x3, fam.bit, 0, d0, d1, 0⟩
  | .crccmp c          => ⟨0x4, 0, 0, 0, 0, c⟩
  | .chk3 fam d0 d1 c  => ⟨0x5, fam.bit, 0, d0, d1, c⟩
  | .convt fam d0 d1 c => ⟨0x6, fam.bit, 0, d0, d1, c⟩
  | .convh fam d0 d1 c => ⟨0x7, fam.bit, 0, d0, d1, c⟩
  | .convth h0 h1 hc   => ⟨0x8, 1, 0, h0, h1, hc⟩
  | .htrstat s0 s1 c   => ⟨0x9, 1, 0, s0, s1, c⟩
  | .rawt fam r0 r1    => ⟨0xA, fam.bit, 0, r0, r1, 0⟩
  | .rawh fam r0 r1    => ⟨0xB, fam.bit, 0, r0, r1, 0⟩

/-- The command word of a command (30_encoding.md R73). A command is one word long (R70). -/
def encode (i : Instr) : Word := i.fields.toWord

/-- The command word of `nbits` bits whose value is `w`, as spec/opcode_table.json numbers bits; the bits above `nbits`
are zero. A command is one 32-bit word (30_encoding.md R70), so no more than 32 bits are kept. -/
def tableWord (nbits w : Nat) : Word := BitVec.ofNat 32 (w % 2 ^ nbits)

/-- The command the decoder reads from the opcode table's word (none for a word longer than a command, R70). -/
def decodeTableWord (nbits w : Nat) : Option Instr :=
  if nbits ≤ 32 then
    match decode (tableWord nbits w) with
    | .command i => some i
    | .illegal _ => none
  else none

end Sys2Proof
end

