-- ==== Sys2Proof/Config.lean ====
section
/-!
DEFINITION. What the platform fixes. BASE is the one parameter the spec leaves open (00_scope.md R6, D3): State holds
BASE / 64, and this file holds only the value it has in `State.reset`. There is no free value: the spec leaves no
register, field or result unspecified (93_implementation_defined.md).
-/
namespace Sys2Proof.Config

/-- Bytes of the register window (00_scope.md R6: 64 bytes, 16 registers); BASE is a multiple of it. -/
def windowBytes : Nat := 64

/-- BASE / 64 in `State.reset`. DESIGN CHOICE (notes/assumptions/3.md): the spec leaves BASE to the platform; no statement
rests on this value, each is about every window. -/
def windowAtReset : Nat := 0

end Sys2Proof.Config
end

