-- ==== Sys2Proof/Machine/Access.lean ====
section
/-!
DEFINITION. The registers of the window (10_state.md R22), the host's accesses, and which of them are legal (20_memory.md R51).
-/
namespace Sys2Proof.Machine

/-- The sixteen registers of the window (10_state.md R22). -/
inductive Reg where
  | cmd | arg | status | acc
  | crc0 | raw0 | num0 | den0 | fx0
  | crc1 | raw1 | num1 | den1 | fx1
  | id | rsvd
deriving DecidableEq, Repr

/-- A register's byte offset from BASE (10_state.md R22). -/
def Reg.offset : Reg → Nat
  | .cmd => 0x00
  | .arg => 0x04
  | .status => 0x08
  | .acc => 0x0C
  | .crc0 => 0x10
  | .raw0 => 0x14
  | .num0 => 0x18
  | .den0 => 0x1C
  | .fx0 => 0x20
  | .crc1 => 0x24
  | .raw1 => 0x28
  | .num1 => 0x2C
  | .den1 => 0x30
  | .fx1 => 0x34
  | .id => 0x38
  | .rsvd => 0x3C

/-- The register at a byte offset (10_state.md R22); none between two registers. -/
def Reg.ofOffset : Nat → Option Reg
  | 0x00 => some .cmd
  | 0x04 => some .arg
  | 0x08 => some .status
  | 0x0C => some .acc
  | 0x10 => some .crc0
  | 0x14 => some .raw0
  | 0x18 => some .num0
  | 0x1C => some .den0
  | 0x20 => some .fx0
  | 0x24 => some .crc1
  | 0x28 => some .raw1
  | 0x2C => some .num1
  | 0x30 => some .den1
  | 0x34 => some .fx1
  | 0x38 => some .id
  | 0x3C => some .rsvd
  | _ => none

/-- One access of the host: its width in bits and its address; a write's data (the low `width` bits of `value` where the
width is under 32; no write of another width than 32 is performed, 20_memory.md R53). -/
inductive Access where
  | read (width addr : Nat)
  | write (width addr : Nat) (value : Word)
deriving DecidableEq, Repr

/-- The width of an access in bits. -/
def Access.width : Access → Nat
  | .read width _ => width
  | .write width _ _ => width

/-- The address of an access. -/
def Access.addr : Access → Nat
  | .read _ addr => addr
  | .write _ addr _ => addr

/-- A legal access (20_memory.md R51): 32 bits wide, inside the window, aligned to 4 within it. -/
def Access.legal (base : Nat) (a : Access) : Bool :=
  decide (a.width = 32) && (decide (base ≤ a.addr) && decide (a.addr < base + 64)) && decide ((a.addr - base) % 4 = 0)

/-- The register a legal access reaches: the one at offset a - BASE (20_memory.md R51); none for an access that is not
legal. -/
def Access.target (base : Nat) (a : Access) : Option Reg :=
  if a.legal base then Reg.ofOffset (a.addr - base) else none

end Sys2Proof.Machine
end

