-- ==== Sys2Proof/Machine/Results.lean ====
section
/-!
DEFINITION. The two result slots and the result group (10_state.md R32, R33), with the empty value.
-/
namespace Sys2Proof.Machine

/-- One result slot (10_state.md R32). `num` and `fx` are two's complement, `den` is unsigned. -/
structure Slot where
  crc : Byte
  raw : Word
  num : Word
  den : Word
  fx  : Word
deriving DecidableEq, Repr

/-- The sentinel of RAWk: no raw code (10_state.md R32). -/
def noRaw : Word := 0xFFFFFFFF

/-- The sentinel of NUMk and FXk: no value, -2^31 as a signed number (10_state.md R32). -/
def noValue : Word := 0x80000000

/-- The empty value of a slot (10_state.md R33). -/
def Slot.empty : Slot := ⟨0x00, noRaw, noValue, 0, noValue⟩

/-- The result group (10_state.md R33): the registers every result command rewrites. -/
structure Results where
  v0    : Bool
  v1    : Bool
  hv    : Bool
  htr   : Bool
  slot0 : Slot
  slot1 : Slot
deriving DecidableEq, Repr

/-- The empty value of the result group (10_state.md R33). -/
def Results.empty : Results := ⟨false, false, false, false, .empty, .empty⟩

end Sys2Proof.Machine
end

