-- ==== Sys2Proof/Machine/Block.lean ====
section
/-!
DEFINITION. The block's whole architectural state (10_state.md R20) and its reset values (70_reset_and_hazards.md R180).
-/
namespace Sys2Proof.Machine

/-- The fields of 10_state.md R20, and no other. -/
structure Block where
  /-- ARG, 24 bits (R24). -/
  arg       : BitVec 24
  /-- ACC, the CRC-8 accumulator (R30). -/
  acc       : Byte
  /-- MATCH (R28). -/
  matchFlag : Bool
  /-- ERR, sticky (R29). -/
  err       : Bool
  /-- ECODE, 4 bits (R29). -/
  ecode     : BitVec 4
  /-- V0, V1, HV, HTR and both slots (R33). -/
  results   : Results
deriving DecidableEq, Repr

/-- Every piece of state at its reset value (70_reset_and_hazards.md R180). -/
def Block.reset : Block := ⟨0, 0x00, false, false, 0, .empty⟩

end Sys2Proof.Machine
end

