-- ==== Sys2Proof/Machine/State.lean ====
section
/-!
DEFINITION. The state of a run: the block (10_state.md R20) and the host port it is driven through, the reasons a step can
stop, and the state after reset.
-/
namespace Sys2Proof.Machine

/-- The block's architectural state, exactly 10_state.md R20's, is `block`. The other fields are the model's own: the
parameter BASE (as BASE / 64), the level of the reset input, and the host's side of the bus (00_scope.md R10:
one step per host access). -/
structure State where
  block     : Block
  /-- BASE / 64 (00_scope.md R6: BASE is a multiple of 64 that the platform chooses). No step changes it. -/
  window    : Nat
  /-- The reset input is asserted (70_reset_and_hazards.md R180, R181). No step changes it. -/
  resetLine : Bool
  /-- The accesses the host has issued and the block has not served yet, first issued first (20_memory.md R62). -/
  pending   : List Access
  /-- The data the host's reads have returned, oldest first (20_memory.md R52). -/
  replies   : List Word
deriving DecidableEq, Repr

/-- Why a step stops with a fault. -/
inductive Fault where
  /-- The bus-error response to an access that is not legal, with its address: raised by `performAccess` (20_memory.md
  R53). No block state changes. Safe: 93_implementation_defined.md has a model treat it as a fault. -/
  | busError (addr : Nat)
deriving DecidableEq, Repr

/-- Why a step is refused. -/
inductive Refusal where
  /-- An instruction without a meaning; raised by no arm of `exec`. Safe. -/
  | notModelled (mnemonic : String)
  /-- There is no access to serve, and the block never takes a step of its own (00_scope.md R10): raised by `step`. Safe. -/
  | noAccess
  /-- The host accesses the block while reset is asserted, which the spec does not define (70_reset_and_hazards.md R181) and
  93_implementation_defined.md has a model refuse: raised by `step`. Safe. -/
  | accessDuringReset
deriving DecidableEq, Repr

/-- BASE (00_scope.md R6). -/
def State.base (s : State) : Nat := Config.windowBytes * s.window

/-- Right after reset (70_reset_and_hazards.md R180) in the window at 64 * `window`: nothing issued, nothing read. -/
def State.resetAt (window : Nat) : State := ⟨.reset, window, false, [], []⟩

/-- The machine right after reset. Its window is a DESIGN CHOICE (notes/assumptions/3.md). -/
def State.reset : State := .resetAt Config.windowAtReset

end Sys2Proof.Machine
end

