-- ==== Sys2Proof/Machine/Operands.lean ====
section
/-!
DEFINITION. How a command's operands are put together (30_encoding.md R72) and how numbers are written into registers
(00_scope.md R8).
-/
namespace Sys2Proof.Machine

/-- seed(FAM): 0x00 for family A, 0xFF for family B (40_crc.md R103). -/
def seed : Family → Byte
  | .A => 0x00
  | .B => 0xFF

/-- word16(b0, b1) = b0 * 256 + b1: the first byte is the most significant (20_memory.md R55, 41_convert.md R120). -/
def word16 (b0 b1 : Byte) : Raw := b0 ++ b1

/-- A0 = ARG[23:16], byte 0 of the 6-byte frame (10_state.md R24). -/
def argByte0 (arg : BitVec 24) : Byte := arg.extractLsb' 16 8

/-- A1 = ARG[15:8], byte 1 of the 6-byte frame (10_state.md R24). -/
def argByte1 (arg : BitVec 24) : Byte := arg.extractLsb' 8 8

/-- A2 = ARG[7:0], byte 2 of the 6-byte frame (10_state.md R24). -/
def argByte2 (arg : BitVec 24) : Byte := arg.extractLsb' 0 8

/-- What a write of `v` leaves in ARG: v[23:0] (20_memory.md R54). -/
def argOfWord (v : Word) : BitVec 24 := v.extractLsb' 0 24

/-- zext_32 of a byte (00_scope.md R8). -/
def zextByte (b : Byte) : Word := b.setWidth 32

/-- zext_32 of a raw code (00_scope.md R8). -/
def zextRaw (r : Raw) : Word := r.setWidth 32

/-- zext_32 of ARG (20_memory.md R52). -/
def zextArg (a : BitVec 24) : Word := a.setWidth 32

/-- enc_s32: the 32-bit two's-complement pattern of an integer (00_scope.md R8). -/
def encS32 (n : Int) : Word := BitVec.ofInt 32 n

/-- fdiv(a, b): the floor of a / b, for b > 0 (00_scope.md R8). -/
def fdiv (a b : Int) : Int := Int.fdiv a b

end Sys2Proof.Machine
end

