-- ==== Sys2Proof/Machine/Convert.lean ====
section
/-!
DEFINITION. The conversion formulas and the fixed-point rounding (41_convert.md R121 to R128).
-/
namespace Sys2Proof.Machine

/-- The two quantities the block converts (41_convert.md R122, R123). -/
inductive Quantity where
  | temperature
  | humidity
deriving DecidableEq, Repr

/-- What a family's formulas use of a raw code: family A clears the two low bits, family B none (41_convert.md R121). -/
def masked : Family → Raw → Nat
  | .A, raw => (raw &&& 0xFFFC).toNat
  | .B, raw => raw.toNat

/-- conv_T: temperature in °C as numerator and denominator (41_convert.md R122). -/
def convT (fam : Family) (raw : Raw) : Int × Nat :=
  match fam with
  | .A => (17572 * (masked .A raw : Int) - 307036160, 6553600)
  | .B => (175 * (masked .B raw : Int) - 2949075, 65535)

/-- conv_H: relative humidity in %RH as numerator and denominator (41_convert.md R123). -/
def convH (fam : Family) (raw : Raw) : Int × Nat :=
  match fam with
  | .A => (125 * (masked .A raw : Int) - 393216, 65536)
  | .B => (100 * (masked .B raw : Int), 65535)

/-- The quantity function of 41_convert.md R128. -/
def conv : Quantity → Family → Raw → Int × Nat
  | .temperature => convT
  | .humidity => convH

/-- fx(NUM, DEN) = fdiv(NUM * 2^17 + DEN, 2 * DEN): the Q16.16 value, to nearest, ties toward plus infinity
(41_convert.md R126; 131072 is 2^17). -/
def fxRound (n : Int) (d : Nat) : Int := fdiv (n * 131072 + d) (2 * d)

/-- write_conv: RAW, NUM, DEN and FX of a slot; its CRC field is not written (41_convert.md R128). -/
def writeConv (q : Quantity) (fam : Family) (raw : Raw) (sl : Slot) : Slot :=
  { sl with
    raw := zextRaw raw
    num := encS32 (conv q fam raw).1
    den := BitVec.ofNat 32 (conv q fam raw).2
    fx  := encS32 (fxRound (conv q fam raw).1 (conv q fam raw).2) }

end Sys2Proof.Machine
end

