-- ==== Sys2Proof/Machine/Flags.lean ====
section
/-!
DEFINITION. STATUS and its flags (10_state.md R25, R28, R29): how the register is composed, what a write of it clears, the
code of a cause, and the MATCH rule.
-/
namespace Sys2Proof.Machine

/-- A flag as a word of 0 or 1. -/
def flagWord (b : Bool) : Word := if b then 1 else 0

/-- V0 | V1<<1 | HV<<2 | HTR<<3 | MATCH<<4 | ERR<<7 | ECODE<<8 (10_state.md R25, 20_memory.md R52). -/
def statusWord (b : Block) : Word :=
  flagWord b.results.v0 ||| flagWord b.results.v1 <<< 1 ||| flagWord b.results.hv <<< 2 ||| flagWord b.results.htr <<< 3
    ||| flagWord b.matchFlag <<< 4 ||| flagWord b.err <<< 7 ||| (b.ecode.setWidth 32) <<< 8

/-- ECODE of a cause (60_exceptions.md R162). -/
def causeCode : Cause → BitVec 4
  | .reservedOpcode => 1
  | .reservedField => 2
  | .familyUnsupported => 3

/-- ECODE after an illegal command: the first cause since the last clear stays (60_exceptions.md R161). -/
def ecodeAfterIllegal (err : Bool) (ecode : BitVec 4) (c : Cause) : BitVec 4 :=
  if err then ecode else causeCode c

/-- Bit 7 of a STATUS write clears ERR and ECODE (20_memory.md R54). -/
def clearsError (v : Word) : Bool := v.getLsbD 7

/-- MATCH of CRCCMP (40_crc.md R108). -/
def matchOf (acc c : Byte) : Bool := acc == c

/-- HTR of HTRSTAT: bit 13 of the big-endian status word (42_frame.md R146). -/
def heaterBit (w : Raw) : Bool := w.getLsbD 13

end Sys2Proof.Machine
end

