-- ==== Sys2Proof/Machine/Ops.lean ====
section
/-!
DEFINITION. The named operations every meaning and every access is written over: one writer per register or group of the
block, the illegal-command outcome (the block's one exception, 60_exceptions.md R161) with the clearing of it beside it
(R164, R168), and the reset input (70_reset_and_hazards.md R180).
-/
namespace Sys2Proof.Machine

/-- Writes ARG (20_memory.md R54). -/
def State.setArg (s : State) (a : BitVec 24) : State := { s with block := { s.block with arg := a } }

/-- Writes ACC (10_state.md R31). -/
def State.setAcc (s : State) (a : Byte) : State := { s with block := { s.block with acc := a } }

/-- Writes MATCH (10_state.md R28). -/
def State.setMatch (s : State) (m : Bool) : State := { s with block := { s.block with matchFlag := m } }

/-- Writes ERR and ECODE (10_state.md R29). -/
def State.setError (s : State) (err : Bool) (ecode : BitVec 4) : State :=
  { s with block := { s.block with err := err, ecode := ecode } }

/-- Writes the whole result group (10_state.md R33). -/
def State.setResults (s : State) (r : Results) : State := { s with block := { s.block with results := r } }

/-- Returns a word to the host (20_memory.md R52). -/
def State.reply (s : State) (v : Word) : State := { s with replies := s.replies ++ [v] }

/-- The accesses that are still to be served (20_memory.md R62). -/
def State.withPending (s : State) (l : List Access) : State := { s with pending := l }

/-- illegal(code), the whole effect of an illegal command (60_exceptions.md R161): ECODE takes the cause if ERR was 0, and
ERR becomes 1. -/
def takeIllegal (c : Cause) (s : State) : State :=
  s.setError true (ecodeAfterIllegal s.block.err s.block.ecode c)

/-- The recovery from an illegal command (60_exceptions.md R164, R168): ERR and ECODE become 0. -/
def clearError (s : State) : State := s.setError false 0

/-- The reset input goes active: an input, no step (00_scope.md R10). -/
def State.assertReset (s : State) : State := { s with resetLine := true }

/-- The reset input is released: every piece of the block's state holds its reset value, whatever it was before
(70_reset_and_hazards.md R180). An input, no step (00_scope.md R10). -/
def State.releaseReset (s : State) : State := { s with block := .reset, resetLine := false }

end Sys2Proof.Machine
end

