-- ==== Sys2Proof/Machine/ConvertCommands.lean ====
section
/-!
DEFINITION. RAWT and RAWH (41_convert.md R129, R130).
-/
namespace Sys2Proof.Machine

/-- The result group after RAWT or RAWH: empty but for slot 0's conversion and V0 (41_convert.md R129, R130). -/
def rawResults (q : Quantity) (fam : Family) (raw : Raw) : Results :=
  { Results.empty with slot0 := writeConv q fam raw Results.empty.slot0, v0 := true }

/-- RAWT (41_convert.md R129). -/
def execRawt (fam : Family) (r0 r1 : Byte) (s : State) : Host.Outcome State Fault Refusal :=
  .next (s.setResults (rawResults .temperature fam (word16 r0 r1)))

/-- RAWH (41_convert.md R130). -/
def execRawh (fam : Family) (r0 r1 : Byte) (s : State) : Host.Outcome State Fault Refusal :=
  .next (s.setResults (rawResults .humidity fam (word16 r0 r1)))

end Sys2Proof.Machine
end

