-- ==== Sys2Proof/Machine/Crc8.lean ====
section
/-!
DEFINITION. The CRC-8 functions (40_crc.md R100 to R104) and the frame check (42_frame.md R140).
-/
namespace Sys2Proof.Machine

/-- One iteration of 40_crc.md R100: x << 1, with 0x131 (x^8 + x^5 + x^4 + 1) XORed in when x[7] = 1. Bit 8 of the shifted
value is kept until the XOR, which cancels it, so that 8 bits hold the result. -/
def crcShift (x : Byte) : Byte :=
  let y : BitVec 9 := x.setWidth 9 <<< 1
  (if x.getLsbD 7 then y ^^^ 0x131 else y).setWidth 8

/-- `repeat n times` of the spec's pseudocode (40_crc.md R100). -/
def iterate {α : Type} (f : α → α) : Nat → α → α
  | 0, x => x
  | n + 1, x => iterate f n (f x)

/-- crc8_step(acc, b): the byte is XORed into the accumulator, then eight iterations (40_crc.md R100). -/
def crc8Step (acc b : Byte) : Byte := iterate crcShift 8 (acc ^^^ b)

/-- crc8_2(s, d0, d1): the checksum of two bytes in frame order (40_crc.md R102). -/
def crc8Pair (s d0 d1 : Byte) : Byte := crc8Step (crc8Step s d0) d1

/-- check3(fam, d0, d1, c): the computed checksum, and whether it is the received one (42_frame.md R140, 40_crc.md R104). -/
def check3 (fam : Family) (d0 d1 c : Byte) : Byte × Bool :=
  let k := crc8Pair (seed fam) d0 d1
  (k, k == c)

end Sys2Proof.Machine
end

