-- ==== Sys2Proof/Machine/CrcCommands.lean ====
section
/-!
DEFINITION. CRCINIT, CRCBYTE, CRCPAIR and CRCCMP (40_crc.md R105 to R108).
-/
namespace Sys2Proof.Machine

/-- CRCINIT (40_crc.md R105): `R.ACC <- seed(fam)`. -/
def execCrcinit (fam : Family) (s : State) : Host.Outcome State Fault Refusal :=
  .next (s.setAcc (seed fam))

/-- CRCBYTE (40_crc.md R106): `R.ACC <- crc8_step(R.ACC, b)`. -/
def execCrcbyte (b : Byte) (s : State) : Host.Outcome State Fault Refusal :=
  .next (s.setAcc (crc8Step s.block.acc b))

/-- CRCPAIR (40_crc.md R107): `R.ACC <- crc8_2(seed(fam), d0, d1)`. -/
def execCrcpair (fam : Family) (d0 d1 : Byte) (s : State) : Host.Outcome State Fault Refusal :=
  .next (s.setAcc (crc8Pair (seed fam) d0 d1))

/-- CRCCMP (40_crc.md R108): `R.MATCH <- (if R.ACC = c then 1 else 0)`. -/
def execCrccmp (c : Byte) (s : State) : Host.Outcome State Fault Refusal :=
  .next (s.setMatch (matchOf s.block.acc c))

end Sys2Proof.Machine
end

