-- ==== Sys2Proof/Machine/FrameCommands.lean ====
section
/-!
DEFINITION. CHK3, CONVT, CONVH, CONVTH and HTRSTAT (42_frame.md R142 to R146). A result group is computed from the command's
operands (and, for CONVTH, from ARG) alone.
-/
namespace Sys2Proof.Machine

/-- The shape of the one-frame commands: empty the results, put the computed checksum in CRC0, and let `accept` write the
rest only if the frame is valid (42_frame.md R141). -/
def frameResults (fam : Family) (d0 d1 c : Byte) (accept : Results → Results) : Results :=
  let k := (check3 fam d0 d1 c).1
  let ok := (check3 fam d0 d1 c).2
  let r := { Results.empty with slot0 := { Results.empty.slot0 with crc := k } }
  if ok then accept r else r

/-- What CHK3 writes for a valid frame: the raw code and V0 (42_frame.md R142). -/
def acceptRaw (raw : Raw) (r : Results) : Results :=
  { r with slot0 := { r.slot0 with raw := zextRaw raw }, v0 := true }

/-- What CONVT and CONVH write for a valid frame: the conversion and V0 (42_frame.md R143, R144). -/
def acceptConv (q : Quantity) (fam : Family) (raw : Raw) (r : Results) : Results :=
  { r with slot0 := writeConv q fam raw r.slot0, v0 := true }

/-- What HTRSTAT writes for a valid frame: the status word, HTR, HV and V0 (42_frame.md R146). -/
def acceptHeater (w : Raw) (r : Results) : Results :=
  { r with slot0 := { r.slot0 with raw := zextRaw w }, htr := heaterBit w, hv := true, v0 := true }

/-- The result group after CONVTH: both checksums always, both conversions only if both frames are valid
(42_frame.md R145). -/
def combinedResults (arg : BitVec 24) (h0 h1 hc : Byte) : Results :=
  let t := check3 .B (argByte0 arg) (argByte1 arg) (argByte2 arg)
  let h := check3 .B h0 h1 hc
  let r := { Results.empty with
    slot0 := { Results.empty.slot0 with crc := t.1 }
    slot1 := { Results.empty.slot1 with crc := h.1 } }
  if t.2 && h.2 then
    { r with
      slot0 := writeConv .temperature .B (word16 (argByte0 arg) (argByte1 arg)) r.slot0
      slot1 := writeConv .humidity .B (word16 h0 h1) r.slot1
      v0 := true
      v1 := true }
  else r

/-- CHK3 (42_frame.md R142). -/
def execChk3 (fam : Family) (d0 d1 c : Byte) (s : State) : Host.Outcome State Fault Refusal :=
  .next (s.setResults (frameResults fam d0 d1 c (acceptRaw (word16 d0 d1))))

/-- CONVT (42_frame.md R143). -/
def execConvt (fam : Family) (d0 d1 c : Byte) (s : State) : Host.Outcome State Fault Refusal :=
  .next (s.setResults (frameResults fam d0 d1 c (acceptConv .temperature fam (word16 d0 d1))))

/-- CONVH (42_frame.md R144). -/
def execConvh (fam : Family) (d0 d1 c : Byte) (s : State) : Host.Outcome State Fault Refusal :=
  .next (s.setResults (frameResults fam d0 d1 c (acceptConv .humidity fam (word16 d0 d1))))

/-- CONVTH (42_frame.md R145). -/
def execConvth (h0 h1 hc : Byte) (s : State) : Host.Outcome State Fault Refusal :=
  .next (s.setResults (combinedResults s.block.arg h0 h1 hc))

/-- HTRSTAT (42_frame.md R146). -/
def execHtrstat (s0 s1 c : Byte) (s : State) : Host.Outcome State Fault Refusal :=
  .next (s.setResults (frameResults .B s0 s1 c (acceptHeater (word16 s0 s1))))

end Sys2Proof.Machine
end

