-- ==== Sys2Proof/Machine/Dispatch.lean ====
section
/-!
DEFINITION. The command a decoded word runs: the case of 30_encoding.md R77, one arm per constructor.
-/
namespace Sys2Proof.Machine

def exec (i : Instr) (s : State) : Host.Outcome State Fault Refusal :=
  match i with
  -- 40_crc.md
  | .crcinit fam => Sys2Proof.Machine.execCrcinit fam s
  | .crcbyte b => Sys2Proof.Machine.execCrcbyte b s
  | .crcpair fam d0 d1 => Sys2Proof.Machine.execCrcpair fam d0 d1 s
  | .crccmp c => Sys2Proof.Machine.execCrccmp c s
  -- 42_frame.md
  | .chk3 fam d0 d1 c => Sys2Proof.Machine.execChk3 fam d0 d1 c s
  | .convt fam d0 d1 c => Sys2Proof.Machine.execConvt fam d0 d1 c s
  | .convh fam d0 d1 c => Sys2Proof.Machine.execConvh fam d0 d1 c s
  | .convth h0 h1 hc => Sys2Proof.Machine.execConvth h0 h1 hc s
  | .htrstat s0 s1 c => Sys2Proof.Machine.execHtrstat s0 s1 c s
  -- 41_convert.md
  | .rawt fam r0 r1 => Sys2Proof.Machine.execRawt fam r0 r1 s
  | .rawh fam r0 r1 => Sys2Proof.Machine.execRawh fam r0 r1 s

end Sys2Proof.Machine
end

