-- ==== Sys2Proof/Machine/Bus.lean ====
section
/-!
DEFINITION. The host's accesses (20_memory.md R51 to R54): what a read of a register returns, what a write of it does, and
the bus error of an access that is not legal.
-/
namespace Sys2Proof.Machine

/-- The constant of the ID register, "SH" and command-set version 1 (10_state.md R37). -/
def idWord : Word := 0x53480001

/-- BusRead (20_memory.md R52): the word a register reads as. It changes nothing. -/
def readReg (b : Block) : Reg → Word
  | .cmd => 0
  | .arg => zextArg b.arg
  | .status => statusWord b
  | .acc => zextByte b.acc
  | .crc0 => zextByte b.results.slot0.crc
  | .raw0 => b.results.slot0.raw
  | .num0 => b.results.slot0.num
  | .den0 => b.results.slot0.den
  | .fx0 => b.results.slot0.fx
  | .crc1 => zextByte b.results.slot1.crc
  | .raw1 => b.results.slot1.raw
  | .num1 => b.results.slot1.num
  | .den1 => b.results.slot1.den
  | .fx1 => b.results.slot1.fx
  | .id => idWord
  | .rsvd => 0

/-- execute(w), a write of `w` to CMD (30_encoding.md R77): the command it encodes, or the illegal-command outcome. -/
def execute (w : Word) (s : State) : Host.Outcome State Fault Refusal :=
  match decode w with
  | .command i => exec i s
  | .illegal c => .next (takeIllegal c s)

/-- BusWrite (20_memory.md R54). A write to a read-only or reserved register has no effect and is no error. -/
def writeReg (r : Reg) (v : Word) (s : State) : Host.Outcome State Fault Refusal :=
  match r with
  | .cmd => execute v s
  | .arg => .next (s.setArg (argOfWord v))
  | .status => .next (if clearsError v then clearError s else s)
  | .acc => .next s
  | .crc0 => .next s
  | .raw0 => .next s
  | .num0 => .next s
  | .den0 => .next s
  | .fx0 => .next s
  | .crc1 => .next s
  | .raw1 => .next s
  | .num1 => .next s
  | .den1 => .next s
  | .fx1 => .next s
  | .id => .next s
  | .rsvd => .next s

/-- One host access (00_scope.md R10): a legal read returns the register's word, a legal write has its effect, and any other
access is a bus error that changes nothing (20_memory.md R53). -/
def performAccess (a : Access) (s : State) : Host.Outcome State Fault Refusal :=
  match a.target s.base, a with
  | some r, .read _ _ => .next (s.reply (readReg s.block r))
  | some r, .write _ _ v => writeReg r v s
  | none, a => .fault (.busError a.addr)

/-- The write that carries command word `w` (10_state.md R23): a legal 32-bit write to CMD in the window at `base`. -/
def commandWrite (base : Nat) (w : Word) : Access := .write 32 (base + Reg.cmd.offset) w

end Sys2Proof.Machine
end

