-- ==== Sys2Proof/Machine/Step.lean ====
section
/-!
DEFINITION. One step: the host's next access is served (00_scope.md R10, 20_memory.md R62). There is no other step.
-/
namespace Sys2Proof.Machine

/-- Serves the first pending access. With none pending there is no step (00_scope.md R10); an access while reset is asserted
is refused (70_reset_and_hazards.md R181). -/
def step (s : State) : Host.Outcome State Fault Refusal :=
  match s.pending with
  | [] => .refused .noAccess
  | a :: rest => if s.resetLine then .refused .accessDuringReset else performAccess a (s.withPending rest)

/-- The state whose very next step is the CMD write of the table's word: that write is put before the host's other pending
accesses, and the reset input is released. There is no fetch and no program counter (10_state.md R21, 20_memory.md R65): a
command comes to run by being written to CMD (notes/assumptions/1.md). -/
def State.withFetchWord (s : State) (nbits w : Nat) : State :=
  { s with resetLine := false, pending := commandWrite s.base (tableWord nbits w) :: s.pending }

end Sys2Proof.Machine
end

