-- ==== Sys2Proof/Safety.lean ====
section
/-!
DEFINITION. What claims about a run are stated in: which states can serve their next access, and the invariants of the error
fields (10_state.md R29) and of the result group (R34).
-/
namespace Sys2Proof.Machine

/-- The step completes exactly in these states (60_exceptions.md R160): an access is pending, it is legal
(20_memory.md R51), and reset is not asserted (70_reset_and_hazards.md R181). -/
def State.canServe (s : State) : Prop :=
  ∃ a rest, s.pending = a :: rest ∧ a.legal s.base = true ∧ s.resetLine = false

/-- A slot that holds no reading: every field but CRC has its sentinel (10_state.md R34 (a)). -/
structure Slot.Unfilled (sl : Slot) : Prop where
  raw : sl.raw = 0xFFFFFFFF
  num : sl.num = 0x80000000
  den : sl.den = 0
  fx  : sl.fx = 0x80000000

/-- 10_state.md R34 (a) to (e). -/
structure Results.Consistent (r : Results) : Prop where
  /-- (a), slot 0. -/
  unfilled0 : r.v0 = false → r.slot0.Unfilled
  /-- (a), slot 1. -/
  unfilled1 : r.v1 = false → r.slot1.Unfilled
  /-- (b). -/
  rawCode   : r.v0 = true → r.slot0.raw.toNat < 0x10000
  /-- (c), slot 0. -/
  den0      : r.slot0.den ≠ 0 → r.v0 = true ∧ r.slot0.den.toNat ∈ [6553600, 65536, 65535]
  /-- (c), slot 1. -/
  den1      : r.slot1.den ≠ 0 → r.v1 = true ∧ r.slot1.den.toNat ∈ [6553600, 65536, 65535]
  /-- (d). -/
  second    : r.v1 = true → r.v0 = true
  /-- (e), first half. -/
  heaterBit : r.htr = true → r.hv = true
  /-- (e), second half. -/
  heater    : r.hv = true → r.v0 = true ∧ r.slot0.den = 0

/-- 10_state.md R29: ERR = 0 if and only if ECODE = 0, and ECODE is one of 0, 1, 2 and 3. -/
structure Block.ErrorConsistent (b : Block) : Prop where
  noError : b.err = false ↔ b.ecode = 0
  code    : b.ecode.toNat ≤ 3

/-- The invariant of every reachable state: 10_state.md R29 and R34. -/
structure State.Consistent (s : State) : Prop where
  error   : s.block.ErrorConsistent
  results : s.block.results.Consistent

/-- A slot with a value holds the conversion of the raw code it holds, for some quantity and family (41_convert.md R128). -/
def Slot.Explained (sl : Slot) : Prop :=
  sl.den ≠ 0 → ∃ q fam raw,
    sl.raw = zextRaw raw ∧ sl.num = encS32 (conv q fam raw).1 ∧ sl.den.toNat = (conv q fam raw).2 ∧
      sl.fx = encS32 (fxRound (conv q fam raw).1 (conv q fam raw).2)

/-- Both slots' values are conversions of their raw codes. -/
def State.Explained (s : State) : Prop :=
  s.block.results.slot0.Explained ∧ s.block.results.slot1.Explained

end Sys2Proof.Machine
end

