-- ==== Sys2Proof/Certificates/Slice0/Obligations.lean ====
section
/-!
DEFINITION. The statements for the provers. First the words they are written in: the fields of a word, values and registers
written out from the spec's rules and not from the meanings. Then one `Obligations.<Name>` per statement.
-/

namespace Sys2Proof.Spec
open Sys2Proof.Machine

/-! The fields of a command word (30_encoding.md R71). -/
def op (w : Word) : BitVec 4 := w.extractLsb' 28 4
def fam (w : Word) : BitVec 1 := w.extractLsb' 27 1
def rsv (w : Word) : BitVec 3 := w.extractLsb' 24 3
def b0 (w : Word) : Byte := w.extractLsb' 16 8
def b1 (w : Word) : Byte := w.extractLsb' 8 8
def b2 (w : Word) : Byte := w.extractLsb' 0 8

/-- The number of an opcode's command (30_encoding.md R74). -/
def opcode : Instr → Nat
  | .crcinit _ => 0x1
  | .crcbyte _ => 0x2
  | .crcpair _ _ _ => 0x3
  | .crccmp _ => 0x4
  | .chk3 _ _ _ _ => 0x5
  | .convt _ _ _ _ => 0x6
  | .convh _ _ _ _ => 0x7
  | .convth _ _ _ => 0x8
  | .htrstat _ _ _ => 0x9
  | .rawt _ _ _ => 0xA
  | .rawh _ _ _ => 0xB

/-- FAM as a number: 0 for family A, 1 for family B (30_encoding.md R71). -/
def famNat : Family → Nat
  | .A => 0
  | .B => 1

/-- The FAM field of a command's word: its family, 0 where it has none, 1 for CONVTH and HTRSTAT (30_encoding.md R74). -/
def famField : Instr → Nat
  | .crcinit f => famNat f
  | .crcbyte _ => 0
  | .crcpair f _ _ => famNat f
  | .crccmp _ => 0
  | .chk3 f _ _ _ => famNat f
  | .convt f _ _ _ => famNat f
  | .convh f _ _ _ => famNat f
  | .convth _ _ _ => 1
  | .htrstat _ _ _ => 1
  | .rawt f _ _ => famNat f
  | .rawh f _ _ => famNat f

/-- The three operand bytes of a command's word, B0, B1, B2 (30_encoding.md R74). -/
def bytes : Instr → Byte × Byte × Byte
  | .crcinit _ => (0, 0, 0)
  | .crcbyte b => (0, 0, b)
  | .crcpair _ d0 d1 => (d0, d1, 0)
  | .crccmp c => (0, 0, c)
  | .chk3 _ d0 d1 c => (d0, d1, c)
  | .convt _ d0 d1 c => (d0, d1, c)
  | .convh _ d0 d1 c => (d0, d1, c)
  | .convth h0 h1 hc => (h0, h1, hc)
  | .htrstat s0 s1 c => (s0, s1, c)
  | .rawt _ r0 r1 => (r0, r1, 0)
  | .rawh _ r0 r1 => (r0, r1, 0)

/-- The code of a cause (60_exceptions.md R162). -/
def code : Cause → BitVec 4
  | .reservedOpcode => 1
  | .reservedField => 2
  | .familyUnsupported => 3

/-- The state after illegal(code) (60_exceptions.md R161). -/
def afterIllegal (k : BitVec 4) (s : State) : State :=
  { s with block := { s.block with ecode := if s.block.err = false then k else s.block.ecode, err := true } }

/-- seed(FAM) (40_crc.md R103). -/
def seedOf (f : Family) : Byte := if f = .A then 0x00 else 0xFF

/-- The checksum of a data pair for a family (40_crc.md R104). -/
def checksum (f : Family) (d0 d1 : Byte) : Byte := crc8Pair (seedOf f) d0 d1

/-- crc8_step as 40_crc.md R100 writes it, on unbounded numbers. -/
def crcStepNumber (acc b : Nat) : Nat :=
  (fun x => if x.testBit 7 then (x <<< 1) ^^^ 0x131 else x <<< 1)^[8] (acc ^^^ b)

/-- A CRC register fed one message bit (polynomial 0x31 with 8-bit wrap). -/
def serialBit (r : Byte) (m : Bool) : Byte := if r.getLsbD 7 ≠ m then (r <<< 1) ^^^ 0x31 else r <<< 1

/-- The bits of a byte, most significant first. -/
def msbFirst (b : Byte) : List Bool := (List.range 8).map fun i => b.getLsbD (7 - i)

/-- A slot without a value, holding checksum `k` (10_state.md R33, 42_frame.md R141). -/
def emptySlot (k : Byte) : Slot := ⟨k, 0xFFFFFFFF, 0x80000000, 0, 0x80000000⟩

/-- A slot that holds checksum `k` and raw code `r`, and no converted value (42_frame.md R142, R146). -/
def rawSlot (k : Byte) (r : Raw) : Slot := ⟨k, r.setWidth 32, 0x80000000, 0, 0x80000000⟩

/-- A slot that holds checksum `k` and the conversion of `r` (41_convert.md R128). -/
def valueSlot (k : Byte) (q : Quantity) (f : Family) (r : Raw) : Slot :=
  ⟨k, r.setWidth 32, BitVec.ofInt 32 (conv q f r).1, BitVec.ofNat 32 (conv q f r).2,
    BitVec.ofInt 32 (fxRound (conv q f r).1 (conv q f r).2)⟩

/-- The physical value of a conversion, NUM / DEN, exactly (41_convert.md R122, R123). -/
def value (q : Quantity) (f : Family) (r : Raw) : ℚ := ((conv q f r).1 : ℚ) / ((conv q f r).2 : ℚ)

/-- The Q16.16 integer of a conversion (41_convert.md R126). -/
def fixed (q : Quantity) (f : Family) (r : Raw) : ℤ := fxRound (conv q f r).1 (conv q f r).2

/-- The state whose result group is `r`, all else as in `s`. -/
def withResults (s : State) (r : Results) : State := { s with block := { s.block with results := r } }

/-- Commands run one after another. -/
def execAll : List Instr → State → Host.Outcome State Fault Refusal
  | [], s => .next s
  | i :: is, s =>
    match exec i s with
    | .next t => execAll is t
    | .fault r => .fault r
    | .refused r => .refused r

/-- `n` steps, stopping at the first fault or refusal. -/
def steps : Nat → State → Host.Outcome State Fault Refusal
  | 0, s => .next s
  | n + 1, s =>
    match step s with
    | .next t => steps n t
    | .fault r => .fault r
    | .refused r => .refused r

/-- The host issues access `a` before the accesses that `s` still has to serve. -/
def issue (a : Access) (s : State) : State := { s with pending := a :: s.pending }

/-- BusRead(off): a 32-bit read at BASE + off (00_scope.md R9). -/
def readAt (s : State) (off : Nat) : Access := .read 32 (s.base + off)

/-- BusWrite(off, v): a 32-bit write at BASE + off (00_scope.md R9). -/
def writeAt (s : State) (off : Nat) (v : Word) : Access := .write 32 (s.base + off) v

/-- A bit as a number. -/
def bit (b : Bool) : Nat := if b then 1 else 0

/-- Every register's offset and the word it reads as (20_memory.md R52). -/
def readTable (b : Block) : List (Nat × Word) :=
  [ (0x00, 0), (0x04, BitVec.ofNat 32 b.arg.toNat),
    (0x08, BitVec.ofNat 32 (bit b.results.v0 + 2 * bit b.results.v1 + 4 * bit b.results.hv + 8 * bit b.results.htr
      + 16 * bit b.matchFlag + 128 * bit b.err + 256 * b.ecode.toNat)),
    (0x0C, BitVec.ofNat 32 b.acc.toNat), (0x10, BitVec.ofNat 32 b.results.slot0.crc.toNat),
    (0x14, b.results.slot0.raw), (0x18, b.results.slot0.num), (0x1C, b.results.slot0.den), (0x20, b.results.slot0.fx),
    (0x24, BitVec.ofNat 32 b.results.slot1.crc.toNat),
    (0x28, b.results.slot1.raw), (0x2C, b.results.slot1.num), (0x30, b.results.slot1.den), (0x34, b.results.slot1.fx),
    (0x38, 0x53480001), (0x3C, 0) ]

/-- The column "reset value" of 10_state.md R22. -/
def resetTable : List (Nat × Word) :=
  [ (0x00, 0x00000000), (0x04, 0x00000000), (0x08, 0x00000000), (0x0C, 0x00000000), (0x10, 0x00000000),
    (0x14, 0xFFFFFFFF), (0x18, 0x80000000), (0x1C, 0x00000000), (0x20, 0x80000000), (0x24, 0x00000000),
    (0x28, 0xFFFFFFFF), (0x2C, 0x80000000), (0x30, 0x00000000), (0x34, 0x80000000), (0x38, 0x53480001),
    (0x3C, 0x00000000) ]

/-- The same access in the window that lies `k` windows higher. -/
def moveAccess (k : Nat) : Access → Access
  | .read w a => .read w (a + 64 * k)
  | .write w a v => .write w (a + 64 * k) v

/-- The same machine with its window, and all pending accesses, moved up by `k` windows. -/
def moveWindow (k : Nat) (s : State) : State :=
  { s with window := s.window + k, pending := s.pending.map (moveAccess k) }

end Sys2Proof.Spec

open Sys2Proof Sys2Proof.Machine Sys2Proof.Spec

/-! ## Encoding -/

/-- Sanity: words written out from 30_encoding.md R71, R73 and R74 (95_test_vectors.md V2, V3, V4) decode to the commands
they stand for, at least one of each command. -/
def Obligations.WrittenOutWordsDecode : Prop :=
  decode 0x10000000 = .command (.crcinit .A) ∧ decode 0x18000000 = .command (.crcinit .B) ∧
  decode 0x200000BE = .command (.crcbyte 0xBE) ∧ decode 0x38BEEF00 = .command (.crcpair .B 0xBE 0xEF) ∧
  decode 0x40000092 = .command (.crccmp 0x92) ∧ decode 0x58BEEF92 = .command (.chk3 .B 0xBE 0xEF 0x92) ∧
  decode 0x604E856B = .command (.convt .A 0x4E 0x85 0x6B) ∧ decode 0x78683AFD = .command (.convh .B 0x68 0x3A 0xFD) ∧
  decode 0x88622B61 = .command (.convth 0x62 0x2B 0x61) ∧ decode 0x9820005D = .command (.htrstat 0x20 0x00 0x5D) ∧
  decode 0xA0622B00 = .command (.rawt .A 0x62 0x2B) ∧ decode 0xB8BEEF00 = .command (.rawh .B 0xBE 0xEF)

/-- Decoding an encoded command gives it back, for every command and every operand (30_encoding.md R71, R74, R77). -/
def Obligations.DecodeOfEncodeIsTheCommand : Prop :=
  ∀ i : Instr, decode (encode i) = .command i

/-- The other direction: a word that decodes to a command is that command's word; no bit of a legal word is dropped
(30_encoding.md R75: every unused field must be zero). -/
def Obligations.EncodeOfDecodeIsTheWord : Prop :=
  ∀ (w : Word) (i : Instr), decode w = .command i → encode i = w

/-- The decoder agrees with spec/opcode_table.json: a word decodes to a command of mnemonic m exactly when m's row fits it
on the bits of its mask, and a word that no row fits is illegal. -/
def Obligations.DecodeAgreesWithOpcodeTable : Prop :=
  (∀ (w : Word) (r : TableRow), r ∈ opcodeTable →
    ((∃ i, decode w = .command i ∧ i.mnemonic = r.mnemonic) ↔ w &&& r.mask = r.pattern)) ∧
  (∀ w : Word, wellFormedWord w = true ↔ ∃ i, decode w = .command i)

/-- Which words are illegal and with which cause: the first that applies of a reserved opcode, a nonzero must-be-zero field
and an unsupported family (30_encoding.md R75, R76; 60_exceptions.md R162, R163). -/
def Obligations.IllegalCauseIsTheFirstFailingCheck : Prop :=
  ∀ w : Word,
    let badOpcode := op w = 0x0 ∨ 0xC ≤ (op w).toNat
    let badField := rsv w ≠ 0 ∨ (op w = 0x1 ∧ (b0 w ≠ 0 ∨ b1 w ≠ 0 ∨ b2 w ≠ 0)) ∨
      ((op w = 0x2 ∨ op w = 0x4) ∧ (fam w ≠ 0 ∨ b0 w ≠ 0 ∨ b1 w ≠ 0)) ∨
      ((op w = 0x3 ∨ op w = 0xA ∨ op w = 0xB) ∧ b2 w ≠ 0)
    let badFamily := (op w = 0x8 ∨ op w = 0x9) ∧ fam w = 0
    (decode w = .illegal .reservedOpcode ↔ badOpcode) ∧
    (decode w = .illegal .reservedField ↔ ¬ badOpcode ∧ badField) ∧
    (decode w = .illegal .familyUnsupported ↔ ¬ badOpcode ∧ ¬ badField ∧ badFamily) ∧
    ((∃ i, decode w = .command i) ↔ ¬ badOpcode ∧ ¬ badField ∧ ¬ badFamily)

/-- 30_encoding.md R73: the word of opcode op, family f and bytes b0, b1, b2 is op * 2^28 + f * 2^27 + b0 * 2^16 + b1 * 2^8
+ b2; its first hexadecimal digit is the opcode, its second 8 or 0 by FAM, its last six the bytes; and the rule's example. -/
def Obligations.CommandWordIsTheSumOfItsFields : Prop :=
  (∀ i : Instr, (encode i).toNat = opcode i * 2 ^ 28 + famField i * 2 ^ 27 + (bytes i).1.toNat * 2 ^ 16
      + (bytes i).2.1.toNat * 2 ^ 8 + (bytes i).2.2.toNat ∧ rsv (encode i) = 0) ∧
  (∀ i : Instr, (encode i).toNat / 16 ^ 7 = opcode i ∧ (encode i).toNat / 16 ^ 6 % 16 = (if famField i = 1 then 8 else 0) ∧
      (encode i).toNat % 16 ^ 6 = ((bytes i).1.toNat * 256 + (bytes i).2.1.toNat) * 256 + (bytes i).2.2.toNat) ∧
  encode (.convt .B 0xBE 0xEF 0x92) = 0x68BEEF92

/-! ## Reset -/

/-- 70_reset_and_hazards.md R180: at reset, in any window, and when the reset input is released in any state, every piece of
the block's state holds its reset value; so it does not depend on the state before. -/
def Obligations.ResetGivesEveryStateItsValue : Prop :=
  ∀ (n : Nat) (s : State), ∀ b ∈ [(State.resetAt n).block, s.releaseReset.block],
    b.arg = 0 ∧ b.acc = 0x00 ∧ b.matchFlag = false ∧ b.err = false ∧ b.ecode = 0 ∧
    b.results = ⟨false, false, false, false, ⟨0x00, 0xFFFFFFFF, 0x80000000, 0, 0x80000000⟩,
      ⟨0x00, 0xFFFFFFFF, 0x80000000, 0, 0x80000000⟩⟩ ∧
    s.releaseReset.resetLine = false

/-- The sixteen reset values of 10_state.md R22, as a host reads them right after reset, in any window. -/
def Obligations.RegistersReadTheirResetValues : Prop :=
  ∀ (n : Nat), ∀ p ∈ resetTable,
    step (issue (readAt (.resetAt n) p.1) (.resetAt n)) = .next { State.resetAt n with replies := [p.2] }

/-- The invariants hold at reset, in any window, and whenever the reset input is released (10_state.md R29, R34). -/
def Obligations.ResetIsConsistent : Prop :=
  (∀ n : Nat, (State.resetAt n).Consistent ∧ (State.resetAt n).Explained) ∧
  ∀ s : State, s.releaseReset.Consistent ∧ s.releaseReset.Explained

/-! ## Steps and accesses -/

/-- A step runs the decoded command: when the next access is the write of `w` to CMD and `w` decodes to `i`, the step is
`exec i` in the state where that access is no longer pending; nothing else is added around it (30_encoding.md R77). -/
def Obligations.StepRunsTheDecodedCommand : Prop :=
  ∀ (s : State) (w : Word) (i : Instr), s.resetLine = false → decode w = .command i →
    step (issue (writeAt s 0x00 w) s) = exec i s

/-- 60_exceptions.md R161: a CMD write that does not decode sets ERR, and ECODE to its cause if ERR was 0, and changes no
other state. -/
def Obligations.IllegalCommandSetsOnlyErrAndEcode : Prop :=
  ∀ (s : State) (w : Word) (c : Cause), s.resetLine = false → decode w = .illegal c →
    step (issue (writeAt s 0x00 w) s) = .next { s with block :=
      { arg := s.block.arg, acc := s.block.acc, matchFlag := s.block.matchFlag, results := s.block.results,
        err := true, ecode := if s.block.err = false then code c else s.block.ecode } } ∧
    code c ∈ [(1 : BitVec 4), 2, 3]

/-- Sanity: illegal words written out in 95_test_vectors.md V5, from reset, give the STATUS written there. -/
def Obligations.IllegalWordsFromResetGiveTheirStatus : Prop :=
  ∀ n : Nat, ∀ p ∈ ([(0x00000000, 0x180), (0x01000000, 0x180), (0xC0000000, 0x180), (0xF8FFFFFF, 0x180),
      (0x11000000, 0x280), (0x10000001, 0x280), (0x18010000, 0x280), (0x28000012, 0x280), (0x20010012, 0x280),
      (0x30BEEF01, 0x280), (0x48000092, 0x280), (0xA00000FF, 0x280), (0xB1000000, 0x280), (0x81000000, 0x280),
      (0x89000000, 0x280), (0x80622B61, 0x380), (0x90200050, 0x380)] : List (Word × Word)),
    ∃ t, step (issue (writeAt (.resetAt n) 0x00 p.1) (.resetAt n)) = .next t ∧
      t.block = { Block.reset with err := true, ecode := t.block.ecode } ∧ readReg t.block .status = p.2

/-- 20_memory.md R51: an access is legal if and only if it is 32 bits wide, inside the window and aligned to 4 in it; its
offset is a - BASE. A legal access completes, at the register of that offset; any other is a bus error. -/
def Obligations.AccessCompletesExactlyIfLegal : Prop :=
  ∀ (s : State) (a : Access), s.resetLine = false →
    let isLegal := a.width = 32 ∧ s.base ≤ a.addr ∧ a.addr < s.base + 64 ∧ (a.addr - s.base) % 4 = 0
    (isLegal → ∃ t, step (issue a s) = .next t) ∧
    (isLegal → ∀ w d, a = .read w d → ∃ r : Reg, r.offset = d - s.base ∧
      step (issue a s) = .next { s with replies := s.replies ++ [readReg s.block r] }) ∧
    (isLegal → ∀ w d v, a = .write w d v → ∃ r : Reg, r.offset = d - s.base ∧ step (issue a s) = writeReg r v s) ∧
    (¬ isLegal → step (issue a s) = .fault (.busError a.addr))

/-- 20_memory.md R52: what a legal read returns at each of the sixteen offsets, and that it has no effect on any state. -/
def Obligations.ReadReturnsTheRegister : Prop :=
  ∀ s : State, s.resetLine = false → ∀ p ∈ readTable s.block,
    step (issue (readAt s p.1) s) = .next { s with replies := s.replies ++ [p.2] }

/-- 20_memory.md R54: what a legal write does at each offset: CMD executes, ARG takes v[23:0], bit 7 at STATUS clears ERR and
ECODE, and a write anywhere else has no effect. -/
def Obligations.WriteHasItsRegisterEffect : Prop :=
  ∀ (s : State) (v : Word), s.resetLine = false →
    step (issue (writeAt s 0x00 v) s) =
      (match decode v with
        | .command i => exec i s
        | .illegal c => .next (afterIllegal (code c) s)) ∧
    step (issue (writeAt s 0x04 v) s) = .next { s with block := { s.block with arg := v.extractLsb' 0 24 } } ∧
    step (issue (writeAt s 0x08 v) s) =
      .next (if v.getLsbD 7 then { s with block := { s.block with err := false, ecode := 0 } } else s) ∧
    ∀ off ∈ [0x0C, 0x10, 0x14, 0x18, 0x1C, 0x20, 0x24, 0x28, 0x2C, 0x30, 0x34, 0x38, 0x3C],
      step (issue (writeAt s off v) s) = .next s

/-- 10_state.md R37: ID reads 0x5348_0001 in every state, "SH" above version 1, and a write to it changes nothing. -/
def Obligations.IdentityIsConstant : Prop :=
  ∀ (s : State) (v : Word), s.resetLine = false →
    step (issue (readAt s 0x38) s) = .next { s with replies := s.replies ++ [0x53480001] } ∧
    step (issue (writeAt s 0x38 v) s) = .next s ∧
    (readReg s.block .id).extractLsb' 16 16 = BitVec.ofNat 16 ('S'.toNat * 256 + 'H'.toNat) ∧
    (readReg s.block .id).extractLsb' 0 16 = (1 : BitVec 16)

/-- A step serves the first pending access and no other: accesses issued later do not change what it does, they stay pending
in their order, the window and the reset input stay, a read returns one word and a write none (00_scope.md R10,
20_memory.md R62). -/
def Obligations.StepServesOneAccessInOrder : Prop :=
  ∀ (s t : State) (a : Access) (rest later : List Access), s.pending = a :: rest → step s = .next t →
    t.pending = rest ∧ t.window = s.window ∧ t.resetLine = false ∧
    (∀ w d, a = .read w d → ∃ v, t.replies = s.replies ++ [v] ∧ t.block = s.block) ∧
    (∀ w d v, a = .write w d v → t.replies = s.replies) ∧
    step { s with pending := a :: later } = .next { t with pending := later }

/-- When there is no step: with no access pending the block takes none (00_scope.md R10), and an access while reset is asserted
is refused (93_implementation_defined.md on 70_reset_and_hazards.md R181; the refusals' names are the model's, log entries 1
and 4). Otherwise the step completes exactly when the access is legal. -/
def Obligations.StepExistsExactlyForAServableAccess : Prop :=
  (∀ s : State, s.pending = [] → step s = .refused .noAccess) ∧
  (∀ (s : State) (a : Access), step (issue a { s with resetLine := true }) = .refused .accessDuringReset) ∧
  (∀ s : State, (∃ t, step s = .next t) ↔ s.canServe)

/-- Reads have no side effects and are idempotent, writes to ARG and STATUS are idempotent, writes to CMD in general are not
(20_memory.md R59). -/
def Obligations.ReadsAndPlainWritesAreIdempotent : Prop :=
  (∀ (s : State) (off : Nat), s.resetLine = false → off < 64 → off % 4 = 0 → ∃ v,
    step (issue (readAt s off) s) = .next { s with replies := s.replies ++ [v] } ∧
    steps 2 (issue (readAt s off) (issue (readAt s off) s)) = .next { s with replies := s.replies ++ [v, v] }) ∧
  (∀ (s : State) (v : Word), s.resetLine = false → ∀ off ∈ [0x04, 0x08], ∃ t,
    step (issue (writeAt s off v) s) = .next t ∧
    steps 2 (issue (writeAt s off v) (issue (writeAt s off v) s)) = .next t) ∧
  (∃ (s : State) (w : Word) (t u : State), step (issue (writeAt s 0x00 w) s) = .next t ∧
    steps 2 (issue (writeAt s 0x00 w) (issue (writeAt s 0x00 w) s)) = .next u ∧ t.block.acc ≠ u.block.acc)

/-- BASE is a parameter (92_eei_decisions.md D3, 20_memory.md R60): moving the window together with the host's accesses
changes nothing else, in a step that completes and in one that ends in a bus error. -/
def Obligations.StepDoesNotDependOnTheWindow : Prop :=
  ∀ (s : State) (k : Nat),
    (∀ t, step s = .next t → step (moveWindow k s) = .next (moveWindow k t)) ∧
    (∀ a, step s = .fault (.busError a) → step (moveWindow k s) = .fault (.busError (a + 64 * k)))

/-! ## CRC-8 -/

/-- 40_crc.md R100: the byte step is the source's algorithm on unbounded numbers (polynomial 0x131, most significant bit first,
XOR into the accumulator, eight shifts with conditional XOR), always below 256: no reflection and no final XOR. -/
def Obligations.CrcStepIsTheShiftAlgorithm : Prop :=
  ∀ acc b : Byte, (crc8Step acc b).toNat = crcStepNumber acc.toNat b.toNat ∧ crcStepNumber acc.toNat b.toNat < 256

/-- 40_crc.md R101: with 8-bit wrap, an iteration XORs 0x31 into the shifted value when bit 7 was set; and the sixteen values
that the rule lists. -/
def Obligations.CrcStepHasAnEightBitForm : Prop :=
  (∀ acc b : Byte, crc8Step acc b =
    (fun x : Byte => if x.getLsbD 7 then (x <<< 1) ^^^ 0x31 else x <<< 1)^[8] (acc ^^^ b)) ∧
  (List.range 16).map (fun n => crc8Step 0 (BitVec.ofNat 8 n)) =
    [0x00, 0x31, 0x62, 0x53, 0xC4, 0xF5, 0xA6, 0x97, 0xB9, 0x88, 0xDB, 0xEA, 0x7D, 0x4C, 0x1F, 0x2E]

/-- 20_memory.md R56: the checksum of a pair is that of a bit-serial CRC register fed b0 and then b1, each most significant
bit first. -/
def Obligations.ChecksumTakesBytesInFrameOrderMsbFirst : Prop :=
  ∀ s d0 d1 : Byte, crc8Pair s d0 d1 = (msbFirst d0 ++ msbFirst d1).foldl serialBit s

/-- 40_crc.md R109: the two seeds' checksums of a pair differ by 0x81, so they always differ, and a frame valid for one family
is never valid for the other. -/
def Obligations.SeedsDifferByConstant : Prop :=
  ∀ d0 d1 : Byte, crc8Pair 0xFF d0 d1 = crc8Pair 0x00 d0 d1 ^^^ 0x81 ∧ crc8Pair 0xFF d0 d1 ≠ crc8Pair 0x00 d0 d1 ∧
    ∀ c, ((check3 .A d0 d1 c).2 = true → (check3 .B d0 d1 c).2 = false) ∧
      ((check3 .B d0 d1 c).2 = true → (check3 .A d0 d1 c).2 = false)

/-- 40_crc.md R110: a byte step gives 0 if and only if the byte equals the accumulator; so a frame is valid if and only if
feeding all three bytes with CRCBYTE after CRCINIT leaves ACC = 0x00. -/
def Obligations.ResidueIsZeroExactlyForValidFrames : Prop :=
  (∀ a c : Byte, crc8Step a c = 0 ↔ a = c) ∧
  ∀ (f : Family) (d0 d1 c : Byte) (s : State),
    ((check3 f d0 d1 c).2 = true ↔ crc8Step (crc8Pair (seedOf f) d0 d1) c = 0x00) ∧
    ∃ t, execAll [.crcinit f, .crcbyte d0, .crcbyte d1, .crcbyte c] s = .next t ∧
      ((check3 f d0 d1 c).2 = true ↔ t.block.acc = 0x00)

/-- 40_crc.md R111: CRCINIT.f; CRCBYTE d0; CRCBYTE d1 and CRCPAIR.f d0, d1 leave the same ACC, and neither changes any other
state. -/
def Obligations.CrcpairIsTwoByteSteps : Prop :=
  ∀ (f : Family) (d0 d1 : Byte) (s : State), ∃ a : Byte,
    execAll [.crcinit f, .crcbyte d0, .crcbyte d1] s = .next { s with block := { s.block with acc := a } } ∧
    exec (.crcpair f d0 d1) s = .next { s with block := { s.block with acc := a } }

/-- 40_crc.md R112: the byte step depends only on a ^ b, is linear over XOR, and a single-bit error in a data byte always
changes the checksum. -/
def Obligations.CrcStepIsLinearAndDetectsBitErrors : Prop :=
  (∀ a b a' b' : Byte, a ^^^ b = a' ^^^ b' → crc8Step a b = crc8Step a' b') ∧
  (∀ a1 a2 b1 b2 : Byte, crc8Step (a1 ^^^ a2) (b1 ^^^ b2) = crc8Step a1 b1 ^^^ crc8Step a2 b2) ∧
  (∀ (s d0 d1 : Byte) (i : Nat), i < 8 →
    crc8Pair s (d0 ^^^ BitVec.twoPow 8 i) d1 ≠ crc8Pair s d0 d1 ∧ crc8Pair s d0 (d1 ^^^ BitVec.twoPow 8 i) ≠ crc8Pair s d0 d1)

/-- 40_crc.md R105, whole: CRCINIT's words, its effect (ACC takes the seed, no flag is written), its errors, its corner cases
and its example. -/
def Obligations.CrcinitLoadsTheSeed : Prop :=
  (encode (.crcinit .A) = 0x10000000 ∧ encode (.crcinit .B) = 0x18000000) ∧
  (∀ (f : Family) (s : State),
    exec (.crcinit f) s = .next { s with block := { s.block with acc := if f = .A then 0x00 else 0xFF } }) ∧
  (∀ (w : Word) (s : State), op w = 0x1 → (rsv w ≠ 0 ∨ b0 w ≠ 0 ∨ b1 w ≠ 0 ∨ b2 w ≠ 0) →
    execute w s = .next (afterIllegal 2 s)) ∧
  (∀ (f : Family) (s : State), ∃ t, exec (.crcinit f) s = .next t ∧ exec (.crcinit f) t = .next t) ∧
  (∀ n, exec (.crcinit .A) (.resetAt n) = .next (.resetAt n)) ∧
  (∀ s : State, ∃ t, exec (.crcinit .B) s = .next t ∧ t.block.acc = 0xFF)

/-- 40_crc.md R106, whole: CRCBYTE's word, its effect (ACC takes one byte step, no flag is written), its errors, its corner
cases and its example with the values in between. -/
def Obligations.CrcbyteFeedsOneByte : Prop :=
  (∀ b : Byte, (encode (.crcbyte b)).toNat = 0x20000000 + b.toNat) ∧
  (∀ (b : Byte) (s : State),
    exec (.crcbyte b) s = .next { s with block := { s.block with acc := crc8Step s.block.acc b } }) ∧
  (∀ (w : Word) (s : State), op w = 0x2 → (fam w ≠ 0 ∨ rsv w ≠ 0 ∨ b0 w ≠ 0 ∨ b1 w ≠ 0) →
    execute w s = .next (afterIllegal 2 s)) ∧
  (∀ a : Byte, crc8Step a a = 0x00) ∧ crc8Step 0x00 0x00 = 0x00 ∧ crc8Step 0xFF 0x00 = 0xAC ∧
  (∀ a b a' b' : Byte, a ^^^ b = a' ^^^ b' → crc8Step a b = crc8Step a' b') ∧
  (List.range 9).map (fun n => iterate crcShift n (0xFF ^^^ 0xBE)) = [0x41, 0x82, 0x35, 0x6A, 0xD4, 0x99, 0x03, 0x06, 0x0C] ∧
  (∀ s : State, s.block.acc = 0xFF → ∃ t, exec (.crcbyte 0xBE) s = .next t ∧ t.block.acc = 0x0C)

/-- 40_crc.md R107, whole: CRCPAIR's word, its effect (ACC takes the checksum of the pair; the old ACC is not read and no flag
is written), its errors, its corner cases and its example. -/
def Obligations.CrcpairComputesFromTheSeed : Prop :=
  (∀ (f : Family) (d0 d1 : Byte),
    (encode (.crcpair f d0 d1)).toNat = 0x30000000 + famNat f * 2 ^ 27 + d0.toNat * 2 ^ 16 + d1.toNat * 2 ^ 8) ∧
  (∀ (f : Family) (d0 d1 : Byte) (s : State),
    exec (.crcpair f d0 d1) s = .next { s with block :=
      { s.block with acc := crc8Step (crc8Step (if f = .A then 0x00 else 0xFF) d0) d1 } }) ∧
  (∀ (w : Word) (s : State), op w = 0x3 → (rsv w ≠ 0 ∨ b2 w ≠ 0) → execute w s = .next (afterIllegal 2 s)) ∧
  (crc8Pair 0x00 0x00 0x00 = 0x00 ∧ crc8Pair 0xFF 0x00 0x00 = 0x81) ∧
  (∀ s : State, ∃ t, exec (.crcpair .B 0xBE 0xEF) s = .next t ∧ t.block.acc = 0x92)

/-- 40_crc.md R108, whole: CRCCMP's word, its effect (MATCH alone is written), its errors, its corner case after reset and its
example. -/
def Obligations.CrccmpComparesTheAccumulator : Prop :=
  (∀ c : Byte, (encode (.crccmp c)).toNat = 0x40000000 + c.toNat) ∧
  (∀ (c : Byte) (s : State),
    exec (.crccmp c) s = .next { s with block := { s.block with matchFlag := decide (s.block.acc = c) } }) ∧
  (∀ (w : Word) (s : State), op w = 0x4 → (fam w ≠ 0 ∨ rsv w ≠ 0 ∨ b0 w ≠ 0 ∨ b1 w ≠ 0) →
    execute w s = .next (afterIllegal 2 s)) ∧
  (∀ n, ∃ t, exec (.crccmp 0x00) (.resetAt n) = .next t ∧ t.block.matchFlag = true) ∧
  (∀ s : State, ∃ t u, execAll [.crcpair .B 0xBE 0xEF, .crccmp 0x92] s = .next t ∧ t.block.matchFlag = true ∧
    execAll [.crcpair .B 0xBE 0xEF, .crccmp 0x93] s = .next u ∧ u.block.matchFlag = false)

/-! ## Conversion -/

/-- 41_convert.md R125 (with R121 to R123): NUM / DEN is the source's formula, evaluated exactly with its decimal literals
read as exact decimals; family A uses the raw code with its two low bits cleared, family B the raw code. -/
def Obligations.ConversionIsTheExactFormula : Prop :=
  ∀ r : Raw,
    let m : ℚ := ((r.toNat &&& 0xFFFC : ℕ) : ℚ)
    let raw : ℚ := (r.toNat : ℚ)
    value .temperature .A r = -46.85 + 175.72 * (m / 65536) ∧ value .humidity .A r = -6 + 125 * (m / 65536) ∧
    value .temperature .B r = -45 + 175 * (raw / 65535) ∧ value .humidity .B r = 100 * (raw / 65535)

/-- 41_convert.md R124: each function's denominator, least and greatest numerator, exactly where they are taken, the physical
range, and that a numerator never wraps in its 32-bit register. -/
def Obligations.NumeratorsStayInTheirRanges : Prop :=
  (∀ r : Raw, (convT .A r).2 = 6553600 ∧ -307036160 ≤ (convT .A r).1 ∧ (convT .A r).1 ≤ 844492144 ∧
    ((convT .A r).1 = -307036160 ↔ r.toNat ≤ 0x0003) ∧ ((convT .A r).1 = 844492144 ↔ 0xFFFC ≤ r.toNat) ∧
    -46.85 ≤ value .temperature .A r ∧ value .temperature .A r < 128.859274903 ∧
    (0xFFFC ≤ r.toNat → 128.859274902 ≤ value .temperature .A r)) ∧
  (∀ r : Raw, (convH .A r).2 = 65536 ∧ -393216 ≤ (convH .A r).1 ∧ (convH .A r).1 ≤ 7798284 ∧
    ((convH .A r).1 = -393216 ↔ r.toNat ≤ 0x0003) ∧ ((convH .A r).1 = 7798284 ↔ 0xFFFC ≤ r.toNat) ∧
    -6 ≤ value .humidity .A r ∧ value .humidity .A r < 118.992370606 ∧
    (0xFFFC ≤ r.toNat → 118.992370605 ≤ value .humidity .A r)) ∧
  (∀ r : Raw, (convT .B r).2 = 65535 ∧ -2949075 ≤ (convT .B r).1 ∧ (convT .B r).1 ≤ 8519550 ∧
    ((convT .B r).1 = -2949075 ↔ r = 0x0000) ∧ ((convT .B r).1 = 8519550 ↔ r = 0xFFFF) ∧
    -45 ≤ value .temperature .B r ∧ value .temperature .B r ≤ 130) ∧
  (∀ r : Raw, (convH .B r).2 = 65535 ∧ 0 ≤ (convH .B r).1 ∧ (convH .B r).1 ≤ 6553500 ∧
    ((convH .B r).1 = 0 ↔ r = 0x0000) ∧ ((convH .B r).1 = 6553500 ↔ r = 0xFFFF) ∧
    0 ≤ value .humidity .B r ∧ value .humidity .B r ≤ 100) ∧
  (∀ (q : Quantity) (f : Family) (r : Raw), -2 ^ 31 < (conv q f r).1 ∧ (conv q f r).1 < 2 ^ 31 ∧
    (encS32 (conv q f r).1).toInt = (conv q f r).1)

/-- 41_convert.md R126: FX is NUM / DEN rounded once to a multiple of 2^-16, to nearest with ties toward plus infinity, by the
rule's floor; its error is at most 2^-17; for DEN = 65536 it is exact. -/
def Obligations.FixedPointRoundsToNearest : Prop :=
  (∀ (n : ℤ) (d : ℕ), 0 < d →
    fxRound n d = ⌊((n : ℚ) * 2 ^ 17 + d) / (2 * d)⌋ ∧ |(fxRound n d : ℚ) / 65536 - (n : ℚ) / d| ≤ 1 / 2 ^ 17 ∧
    ∀ k : ℤ, 2 * (n * 2 ^ 16) = (2 * k + 1) * d → fxRound n d = k + 1) ∧
  (∀ n : ℤ, fxRound n 65536 = n)

/-- 41_convert.md R127: the least and greatest FX of each function, taken at the least and greatest raw code, with their
register patterns; an FX never wraps in its 32-bit register and never equals the sentinel. -/
def Obligations.FixedPointStaysInItsRanges : Prop :=
  (∀ r : Raw, -3070362 ≤ fixed .temperature .A r ∧ fixed .temperature .A r ≤ 8444921 ∧
    -393216 ≤ fixed .humidity .A r ∧ fixed .humidity .A r ≤ 7798284 ∧
    -2949120 ≤ fixed .temperature .B r ∧ fixed .temperature .B r ≤ 8519680 ∧
    0 ≤ fixed .humidity .B r ∧ fixed .humidity .B r ≤ 6553600) ∧
  (encS32 (fixed .temperature .A 0x0000) = 0xFFD12666 ∧ fixed .temperature .A 0x0000 = -3070362 ∧
    encS32 (fixed .temperature .A 0xFFFF) = 0x0080DBF9 ∧ fixed .temperature .A 0xFFFF = 8444921 ∧
    encS32 (fixed .humidity .A 0x0000) = 0xFFFA0000 ∧ fixed .humidity .A 0x0000 = -393216 ∧
    encS32 (fixed .humidity .A 0xFFFF) = 0x0076FE0C ∧ fixed .humidity .A 0xFFFF = 7798284 ∧
    encS32 (fixed .temperature .B 0x0000) = 0xFFD30000 ∧ fixed .temperature .B 0x0000 = -2949120 ∧
    encS32 (fixed .temperature .B 0xFFFF) = 0x00820000 ∧ fixed .temperature .B 0xFFFF = 8519680 ∧
    encS32 (fixed .humidity .B 0x0000) = 0x00000000 ∧ fixed .humidity .B 0x0000 = 0 ∧
    encS32 (fixed .humidity .B 0xFFFF) = 0x00640000 ∧ fixed .humidity .B 0xFFFF = 6553600) ∧
  (∀ (q : Quantity) (f : Family) (r : Raw),
    (encS32 (fixed q f r)).toInt = fixed q f r ∧ encS32 (fixed q f r) ≠ 0x80000000)

/-- 41_convert.md R131: for every function and raw code NUM * 2^16 / DEN is never an odd multiple of 1/2, so FX is the unique
nearest Q16.16 value. -/
def Obligations.NoConversionIsATie : Prop :=
  ∀ (q : Quantity) (f : Family) (r : Raw),
    (∀ k : ℤ, value q f r * 2 ^ 16 ≠ (2 * k + 1) * (1 / 2)) ∧
    ∀ y : ℤ, y ≠ fixed q f r → |(fixed q f r : ℚ) / 65536 - value q f r| < |(y : ℚ) / 65536 - value q f r|

/-- 41_convert.md R132: family A conversions do not depend on the two low bits of the raw code; family B numerators change by
175 or 100 for each raw step. -/
def Obligations.FamilyAIgnoresTheLowBits : Prop :=
  (∀ r : Raw, convT .A r = convT .A (r ||| (0x3 : Raw)) ∧ convH .A r = convH .A (r ||| (0x3 : Raw))) ∧
  (∀ r : Raw, r ≠ 0xFFFF → (convT .B (r + 1)).1 = (convT .B r).1 + 175 ∧ (convH .B (r + 1)).1 = (convH .B r).1 + 100) ∧
  (∃ r : Raw, convT .B r ≠ convT .B (r ||| (0x3 : Raw)) ∧ convH .B r ≠ convH .B (r ||| (0x3 : Raw)))

/-- 41_convert.md R133: NUM / DEN and FX never decrease with the raw code; family B's strictly increase; family A's are
constant on each group of four codes and strictly increase from group to group. -/
def Obligations.ConversionsAreMonotone : Prop :=
  ∀ (q : Quantity) (r r' : Raw),
    (∀ f : Family, r.toNat ≤ r'.toNat → value q f r ≤ value q f r' ∧ fixed q f r ≤ fixed q f r') ∧
    (r.toNat < r'.toNat → value q .B r < value q .B r' ∧ fixed q .B r < fixed q .B r') ∧
    (r.toNat / 4 = r'.toNat / 4 → value q .A r = value q .A r' ∧ fixed q .A r = fixed q .A r') ∧
    (r.toNat / 4 < r'.toNat / 4 → value q .A r < value q .A r' ∧ fixed q .A r < fixed q .A r')

/-- 41_convert.md R134, the end points the source requires: family A temperature of 0x0000 is exactly -46.85 °C, family B
temperature of 0xFFFF exactly 130.0 °C, with their NUM, DEN and FX. -/
def Obligations.EndPointsAreExact : Prop :=
  convT .A 0x0000 = (-307036160, 6553600) ∧ value .temperature .A 0x0000 = -46.85 ∧
  fixed .temperature .A 0x0000 = -3070362 ∧ encS32 (fixed .temperature .A 0x0000) = 0xFFD12666 ∧
  (fixed .temperature .A 0x0000 : ℚ) / 65536 = -46.850006103515625 ∧
  convT .B 0xFFFF = (8519550, 65535) ∧ value .temperature .B 0xFFFF = 130 ∧
  encS32 (fixed .temperature .B 0xFFFF) = 0x00820000 ∧ (fixed .temperature .B 0xFFFF : ℚ) / 65536 = 130

/-- 41_convert.md R129, whole: RAWT's word, its effect (slot 0 takes the temperature of the raw code, V0 = 1, CRC0 = 0x00, the
rest of the result group is empty, nothing else changes), its errors, its corner cases and its example. -/
def Obligations.RawtConvertsToTemperature : Prop :=
  (∀ (f : Family) (r0 r1 : Byte), (encode (.rawt f r0 r1)).toNat
    = 0xA0000000 + famNat f * 2 ^ 27 + (r0.toNat * 256 + r1.toNat) * 2 ^ 8) ∧
  (∀ r0 r1 : Byte, (word16 r0 r1).toNat = r0.toNat * 256 + r1.toNat) ∧
  (∀ (f : Family) (r0 r1 : Byte) (s : State), exec (.rawt f r0 r1) s = .next (withResults s
    ⟨true, false, false, false, valueSlot 0x00 .temperature f (word16 r0 r1), emptySlot 0x00⟩)) ∧
  (∀ (w : Word) (s : State), op w = 0xA → (rsv w ≠ 0 ∨ b2 w ≠ 0) → execute w s = .next (afterIllegal 2 s)) ∧
  (∀ (r0 r1 : Byte), convT .A (word16 r0 r1) = convT .A (word16 r0 (r1 &&& (0xFC : Byte)))) ∧
  (∀ (f : Family) (r : Raw), (convT f 0x0000).1 ≤ (convT f r).1 ∧ (convT f r).1 ≤ (convT f 0xFFFF).1 ∧
    (encS32 (convT f r).1).toInt = (convT f r).1) ∧
  (∀ s : State, exec (.rawt .B 0xFF 0xFF) s = .next (withResults s
    ⟨true, false, false, false, ⟨0x00, 0x0000FFFF, 0x0081FF7E, 65535, 0x00820000⟩, emptySlot 0x00⟩))

/-- 41_convert.md R130, whole: RAWH's word, its effect (as RAWT's, for humidity), its errors, its corner cases (family A is
negative exactly below 0x0C4C and exceeds 100 exactly from 0xD918 on, unclamped; family B is 0 to 100) and its example. -/
def Obligations.RawhConvertsToHumidity : Prop :=
  (∀ (f : Family) (r0 r1 : Byte), (encode (.rawh f r0 r1)).toNat
    = 0xB0000000 + famNat f * 2 ^ 27 + (r0.toNat * 256 + r1.toNat) * 2 ^ 8) ∧
  (∀ (f : Family) (r0 r1 : Byte) (s : State), exec (.rawh f r0 r1) s = .next (withResults s
    ⟨true, false, false, false, valueSlot 0x00 .humidity f (word16 r0 r1), emptySlot 0x00⟩)) ∧
  (∀ (w : Word) (s : State), op w = 0xB → (rsv w ≠ 0 ∨ b2 w ≠ 0) → execute w s = .next (afterIllegal 2 s)) ∧
  (∀ r : Raw, (value .humidity .A r < 0 ↔ r.toNat < 0x0C4C) ∧ (100 < value .humidity .A r ↔ 0xD918 ≤ r.toNat) ∧
    0 ≤ value .humidity .B r ∧ value .humidity .B r ≤ 100) ∧
  (∀ s : State, exec (.rawh .A 0x80 0x00) s = .next (withResults s
    ⟨true, false, false, false, ⟨0x00, 0x00008000, 0x00388000, 65536, 0x00388000⟩, emptySlot 0x00⟩)) ∧
  value .humidity .A 0x8000 = 56.5

/-! ## Frames -/

/-- 42_frame.md R142, whole: CHK3's word, its effect (CRC0 the computed checksum; RAW0 and V0 only for a valid frame; the rest
of the result group empty, nothing else changed), its errors, its corner cases and its example. -/
def Obligations.ChkThreeLatchesValidFrames : Prop :=
  (∀ (f : Family) (d0 d1 c : Byte), (encode (.chk3 f d0 d1 c)).toNat
    = 0x50000000 + famNat f * 2 ^ 27 + d0.toNat * 2 ^ 16 + d1.toNat * 2 ^ 8 + c.toNat) ∧
  (∀ (f : Family) (d0 d1 c : Byte) (s : State), exec (.chk3 f d0 d1 c) s = .next (withResults s
    (if checksum f d0 d1 = c then ⟨true, false, false, false, rawSlot (checksum f d0 d1) (word16 d0 d1), emptySlot 0x00⟩
      else ⟨false, false, false, false, emptySlot (checksum f d0 d1), emptySlot 0x00⟩))) ∧
  (∀ (w : Word) (s : State), op w = 0x5 → rsv w ≠ 0 → execute w s = .next (afterIllegal 2 s)) ∧
  (checksum .A 0x00 0x00 = 0x00 ∧ checksum .B 0x00 0x00 = 0x81) ∧
  (∀ d0 d1 c : Byte, ¬ (checksum .A d0 d1 = c ∧ checksum .B d0 d1 = c)) ∧
  (∀ s : State, exec (.chk3 .B 0xBE 0xEF 0x92) s = .next (withResults s
    ⟨true, false, false, false, ⟨0x92, 0x0000BEEF, 0x80000000, 0, 0x80000000⟩, emptySlot 0x00⟩))

/-- 42_frame.md R143, whole: CONVT's word, its effect (CRC0 the computed checksum; the temperature and V0 only for a valid
frame; the rest of the result group empty, nothing else changed), its errors, its corner cases and its example. -/
def Obligations.ConvtConvertsValidFrames : Prop :=
  (∀ (f : Family) (d0 d1 c : Byte), (encode (.convt f d0 d1 c)).toNat
    = 0x60000000 + famNat f * 2 ^ 27 + d0.toNat * 2 ^ 16 + d1.toNat * 2 ^ 8 + c.toNat) ∧
  (∀ (f : Family) (d0 d1 c : Byte) (s : State), exec (.convt f d0 d1 c) s = .next (withResults s
    (if checksum f d0 d1 = c then
        ⟨true, false, false, false, valueSlot (checksum f d0 d1) .temperature f (word16 d0 d1), emptySlot 0x00⟩
      else ⟨false, false, false, false, emptySlot (checksum f d0 d1), emptySlot 0x00⟩))) ∧
  (∀ (w : Word) (s : State), op w = 0x6 → rsv w ≠ 0 → execute w s = .next (afterIllegal 2 s)) ∧
  (∀ d0 d1 : Byte, convT .A (word16 d0 d1) = convT .A (word16 d0 (d1 &&& (0xFC : Byte)))) ∧
  (∀ (s d0 d1 d1' : Byte), d1 ≠ d1' → crc8Pair s d0 d1 ≠ crc8Pair s d0 d1' ∧ word16 d0 d1 ≠ word16 d0 d1') ∧
  (∀ s : State, exec (.convt .B 0xBE 0xEF 0x92) s = .next (withResults s
    ⟨true, false, false, false, ⟨0x92, 0x0000BEEF, 0x0055858E, 65535, 0x005585E4⟩, emptySlot 0x00⟩)) ∧
  ((0x005585E4 : Word).toInt : ℚ) / 65536 = 85.52301025390625 ∧
  85.5230029755 ≤ value .temperature .B 0xBEEF ∧ value .temperature .B 0xBEEF < 85.5230029756

/-- 42_frame.md R144, whole: CONVH's word, its effect (as CONVT's, for humidity), its errors, its corner case (no clamping) and
its example. -/
def Obligations.ConvhConvertsValidFrames : Prop :=
  (∀ (f : Family) (d0 d1 c : Byte), (encode (.convh f d0 d1 c)).toNat
    = 0x70000000 + famNat f * 2 ^ 27 + d0.toNat * 2 ^ 16 + d1.toNat * 2 ^ 8 + c.toNat) ∧
  (∀ (f : Family) (d0 d1 c : Byte) (s : State), exec (.convh f d0 d1 c) s = .next (withResults s
    (if checksum f d0 d1 = c then
        ⟨true, false, false, false, valueSlot (checksum f d0 d1) .humidity f (word16 d0 d1), emptySlot 0x00⟩
      else ⟨false, false, false, false, emptySlot (checksum f d0 d1), emptySlot 0x00⟩))) ∧
  (∀ (w : Word) (s : State), op w = 0x7 → rsv w ≠ 0 → execute w s = .next (afterIllegal 2 s)) ∧
  ((∃ r : Raw, value .humidity .A r < 0) ∧ ∃ r : Raw, 100 < value .humidity .A r) ∧
  (∀ s : State, exec (.convh .A 0x68 0x3A 0x7C) s = .next (withResults s
    ⟨true, false, false, false, ⟨0x7C, 0x0000683A, 0x002CE358, 65536, 0x002CE358⟩, emptySlot 0x00⟩)) ∧
  ((0x002CE358 : Word).toInt : ℚ) / 65536 = 44.8880615234375 ∧ value .humidity .A 0x683A = 44.8880615234375

/-- 42_frame.md R145, whole: CONVTH's word, its effect on the frame ARG and the operand bytes hold (both checksums always, both
conversions and V0, V1 only if both are valid, nothing else changed), its errors, its corner cases and its example. -/
def Obligations.ConvthConvertsBothWordsOrNeither : Prop :=
  (∀ h0 h1 hc : Byte, (encode (.convth h0 h1 hc)).toNat = 0x88000000 + h0.toNat * 2 ^ 16 + h1.toNat * 2 ^ 8 + hc.toNat) ∧
  (∀ (h0 h1 hc : Byte) (s : State),
    let t0 := s.block.arg.extractLsb' 16 8
    let t1 := s.block.arg.extractLsb' 8 8
    let tc := s.block.arg.extractLsb' 0 8
    exec (.convth h0 h1 hc) s = .next (withResults s
      (if checksum .B t0 t1 = tc ∧ checksum .B h0 h1 = hc then
          ⟨true, true, false, false, valueSlot (checksum .B t0 t1) .temperature .B (word16 t0 t1),
            valueSlot (checksum .B h0 h1) .humidity .B (word16 h0 h1)⟩
        else ⟨false, false, false, false, emptySlot (checksum .B t0 t1), emptySlot (checksum .B h0 h1)⟩))) ∧
  (∀ (w : Word) (s : State), op w = 0x8 → rsv w ≠ 0 → execute w s = .next (afterIllegal 2 s)) ∧
  (∀ (w : Word) (s : State), op w = 0x8 → rsv w = 0 → fam w = 0 → execute w s = .next (afterIllegal 3 s)) ∧
  (∀ s : State, s.block.arg = 0xBEEF92 → exec (.convth 0x62 0x2B 0x61) s = .next (withResults s
    ⟨true, true, false, false, ⟨0x92, 0x0000BEEF, 0x0055858E, 65535, 0x005585E4⟩,
      ⟨0x61, 0x0000622B, 0x002658CC, 65535, 0x002658F2⟩⟩)) ∧
  ((0x002658F2 : Word).toInt : ℚ) / 65536 = 38.347442626953125

/-- 42_frame.md R146, whole: HTRSTAT's word, its effect (CRC0 the computed checksum; RAW0, HTR = bit 13, HV and V0 only for a
valid frame; the rest of the result group empty, nothing else changed), its errors, its corner cases and its examples. -/
def Obligations.HtrstatDecodesTheHeaterBit : Prop :=
  (∀ s0 s1 c : Byte, (encode (.htrstat s0 s1 c)).toNat = 0x98000000 + s0.toNat * 2 ^ 16 + s1.toNat * 2 ^ 8 + c.toNat) ∧
  (∀ (s0 s1 c : Byte) (s : State), exec (.htrstat s0 s1 c) s = .next (withResults s
    (if checksum .B s0 s1 = c then
        ⟨true, false, true, (word16 s0 s1).getLsbD 13, rawSlot (checksum .B s0 s1) (word16 s0 s1), emptySlot 0x00⟩
      else ⟨false, false, false, false, emptySlot (checksum .B s0 s1), emptySlot 0x00⟩))) ∧
  (∀ (w : Word) (s : State), op w = 0x9 → rsv w ≠ 0 → execute w s = .next (afterIllegal 2 s)) ∧
  (∀ (w : Word) (s : State), op w = 0x9 → rsv w = 0 → fam w = 0 → execute w s = .next (afterIllegal 3 s)) ∧
  (∀ s0 s1 : Byte, (word16 s0 s1).getLsbD 13 = s0.getLsbD 5 ∧ (word16 s0 s1).toNat = s0.toNat * 256 + s1.toNat) ∧
  (∀ s : State,
    exec (.htrstat 0x20 0x00 0x5D) s = .next (withResults s
      ⟨true, false, true, true, ⟨0x5D, 0x00002000, 0x80000000, 0, 0x80000000⟩, emptySlot 0x00⟩) ∧
    (∃ t, exec (.htrstat 0x80 0x10 0xE1) s = .next t ∧ t.block.results.hv = true ∧ t.block.results.htr = false) ∧
    (∃ t, exec (.htrstat 0x20 0x00 0x5E) s = .next t ∧ t.block.results.hv = false ∧ t.block.results.htr = false ∧
      t.block.results.v0 = false ∧ t.block.results.slot0.crc = 0x5D))

/-- 42_frame.md R147: after any result command a slot whose V bit is 0 holds no raw code and no converted value, and after
CONVTH either both slots hold values or neither does. -/
def Obligations.ResultCommandsLeaveNoPartialResult : Prop :=
  ∀ (i : Instr) (s : State), i.isResult = true → ∃ t, exec i s = .next t ∧
    (t.block.results.v0 = false → t.block.results.slot0 = emptySlot t.block.results.slot0.crc) ∧
    (t.block.results.v1 = false → t.block.results.slot1 = emptySlot t.block.results.slot1.crc) ∧
    ∀ h0 h1 hc, i = .convth h0 h1 hc →
      (t.block.results.v0 = true ∧ t.block.results.v1 = true ∧ t.block.results.slot0.den = 65535 ∧
        t.block.results.slot1.den = 65535) ∨
      (t.block.results.v0 = false ∧ t.block.results.v1 = false ∧ t.block.results.slot0.den = 0 ∧
        t.block.results.slot1.den = 0)

/-- 42_frame.md R148: V0 after CHK3.f equals MATCH after the single-byte path CHKS.f, and is 1 exactly when feeding all three
bytes after CRCINIT.f leaves ACC = 0x00. -/
def Obligations.FrameCheckEqualsSingleBytePath : Prop :=
  ∀ (f : Family) (d0 d1 c : Byte) (s : State), ∃ t u v,
    exec (.chk3 f d0 d1 c) s = .next t ∧
    execAll [.crcinit f, .crcbyte d0, .crcbyte d1, .crccmp c] s = .next u ∧
    execAll [.crcinit f, .crcbyte d0, .crcbyte d1, .crcbyte c] s = .next v ∧
    t.block.results.v0 = u.block.matchFlag ∧ (t.block.results.v0 = true ↔ v.block.acc = 0x00)

/-- 42_frame.md R149: the result group after a result command depends only on the command and, for CONVTH, on ARG; not on any
earlier result, on ACC or on MATCH. -/
def Obligations.ResultsDependOnlyOnTheCommand : Prop :=
  ∀ (i : Instr) (s s' : State), i.isResult = true →
    ((∃ h0 h1 hc, i = .convth h0 h1 hc) → s.block.arg = s'.block.arg) →
    ∃ t t', exec i s = .next t ∧ exec i s' = .next t' ∧ t.block.results = t'.block.results

/-- 42_frame.md R150: for CONVT, CONVH and CHK3 with a CRC byte that is not the computed checksum, V0 = 0 and NUM0, DEN0, FX0
and RAW0 hold their sentinels. -/
def Obligations.InvalidFramesGiveSentinels : Prop :=
  ∀ (f : Family) (d0 d1 c : Byte) (s : State), c ≠ crc8Pair (seedOf f) d0 d1 →
    ∀ i ∈ [Instr.convt f d0 d1 c, .convh f d0 d1 c, .chk3 f d0 d1 c], ∃ t, exec i s = .next t ∧
      t.block.results.v0 = false ∧ t.block.results.slot0.num = 0x80000000 ∧ t.block.results.slot0.den = 0 ∧
      t.block.results.slot0.fx = 0x80000000 ∧ t.block.results.slot0.raw = 0xFFFFFFFF

/-! ## Whole-machine rules -/

/-- 10_state.md R38: a step changes V0, V1, HV or HTR only by a result command; MATCH only by CRCCMP; ERR or ECODE only by an
illegal command or a STATUS write with bit 7 = 1. -/
def Obligations.FlagsHaveOnlyTheirWriters : Prop :=
  ∀ (s t : State) (a : Access) (rest : List Access), s.pending = a :: rest → step s = .next t →
    (¬ (t.block.results.v0 = s.block.results.v0 ∧ t.block.results.v1 = s.block.results.v1 ∧
        t.block.results.hv = s.block.results.hv ∧ t.block.results.htr = s.block.results.htr) →
      ∃ w i, a = writeAt s 0x00 w ∧ decode w = .command i ∧ i.isResult = true) ∧
    (t.block.matchFlag ≠ s.block.matchFlag → ∃ w c, a = writeAt s 0x00 w ∧ decode w = .command (.crccmp c)) ∧
    (¬ (t.block.err = s.block.err ∧ t.block.ecode = s.block.ecode) →
      (∃ w c, a = writeAt s 0x00 w ∧ decode w = .illegal c) ∨ (∃ v, a = writeAt s 0x08 v ∧ v.getLsbD 7 = true))

/-- 10_state.md R31: a step changes ACC only by CRCINIT, CRCBYTE or CRCPAIR; the frame commands compute their checksums from
the seed and never read or write ACC. -/
def Obligations.AccHasOnlyItsWritersAndReaders : Prop :=
  (∀ (s t : State) (a : Access) (rest : List Access), s.pending = a :: rest → step s = .next t →
    t.block.acc ≠ s.block.acc → ∃ w i, a = writeAt s 0x00 w ∧ decode w = .command i ∧
      ((∃ f, i = .crcinit f) ∨ (∃ b, i = .crcbyte b) ∨ ∃ f d0 d1, i = .crcpair f d0 d1)) ∧
  (∀ (f : Family) (d0 d1 c : Byte) (s : State) (x : Byte),
    ∀ i ∈ [Instr.chk3 f d0 d1 c, .convt f d0 d1 c, .convh f d0 d1 c, .convth d0 d1 c, .htrstat d0 d1 c], ∃ t,
      exec i s = .next t ∧ t.block.acc = s.block.acc ∧
      exec i { s with block := { s.block with acc := x } } = .next { t with block := { t.block with acc := x } })

/-- 10_state.md R24: ARG's three byte fields, its reserved bits (read 0, writes to them ignored), that no command writes it and
that no command but CONVTH reads it (and CONVTH does). -/
def Obligations.ArgHasOnlyItsWritersAndReaders : Prop :=
  (∀ (s : State) (v : Word), s.resetLine = false → ∃ t, step (issue (writeAt s 0x04 v) s) = .next t ∧
    argByte0 t.block.arg = v.extractLsb' 16 8 ∧ argByte1 t.block.arg = v.extractLsb' 8 8 ∧
    argByte2 t.block.arg = v.extractLsb' 0 8 ∧ (readReg t.block .arg).toNat = v.toNat % 2 ^ 24) ∧
  (∀ (i : Instr) (s : State), ∃ t, exec i s = .next t ∧ t.block.arg = s.block.arg) ∧
  (∀ (i : Instr) (s : State) (x : BitVec 24), (∀ h0 h1 hc, i ≠ .convth h0 h1 hc) → ∃ t,
    exec i s = .next t ∧
    exec i { s with block := { s.block with arg := x } } = .next { t with block := { t.block with arg := x } }) ∧
  (∃ (h0 h1 hc : Byte) (s t u : State) (x : BitVec 24), exec (.convth h0 h1 hc) s = .next t ∧
    exec (.convth h0 h1 hc) { s with block := { s.block with arg := x } } = .next u ∧ t.block.results ≠ u.block.results)

/-- 60_exceptions.md R164: ERR does not block: every command does the same whatever ERR and ECODE are; and a step clears ERR
only by a STATUS write with bit 7 = 1, while releasing reset clears it too. -/
def Obligations.ErrDoesNotBlockAndHasOneClear : Prop :=
  (∀ (i : Instr) (s : State) (e : Bool) (k : BitVec 4), ∃ t, exec i s = .next t ∧
    exec i { s with block := { s.block with err := e, ecode := k } }
      = .next { t with block := { t.block with err := e, ecode := k } }) ∧
  (∀ (s t : State) (a : Access) (rest : List Access), s.pending = a :: rest → step s = .next t →
    s.block.err = true → t.block.err = false ∨ (s.block.ecode ≠ 0 ∧ t.block.ecode = 0) →
    ∃ v, a = writeAt s 0x08 v ∧ v.getLsbD 7 = true) ∧
  (∀ (s : State) (v : Word), s.resetLine = false → v.getLsbD 7 = true → ∃ t,
    step (issue (writeAt s 0x08 v) s) = .next t ∧ t.block = { s.block with err := false, ecode := 0 }) ∧
  (∀ s : State, s.releaseReset.block.err = false ∧ s.releaseReset.block.ecode = 0)

/-- The frame of every command as a host reads it: CRCINIT, CRCBYTE and CRCPAIR leave every register but ACC; CRCCMP leaves
every register but STATUS, and every bit of STATUS but bit 4; a result command leaves CMD, ARG, ACC, ID and RSVD, and every
bit of STATUS from bit 4 on. No command touches the window, the reset input or the host's side of the bus. -/
def Obligations.CommandsLeaveOtherRegistersAlone : Prop :=
  ∀ (i : Instr) (s t : State), exec i s = .next t →
    (t.window = s.window ∧ t.resetLine = s.resetLine ∧ t.pending = s.pending ∧ t.replies = s.replies) ∧
    (((∃ f, i = .crcinit f) ∨ (∃ b, i = .crcbyte b) ∨ ∃ f d0 d1, i = .crcpair f d0 d1) →
      ∀ r : Reg, r ≠ .acc → readReg t.block r = readReg s.block r) ∧
    ((∃ c, i = .crccmp c) → (∀ r : Reg, r ≠ .status → readReg t.block r = readReg s.block r) ∧
      ∀ k : Nat, k ≠ 4 → (readReg t.block .status).getLsbD k = (readReg s.block .status).getLsbD k) ∧
    (i.isResult = true → (∀ r ∈ [Reg.cmd, .arg, .acc, .id, .rsvd], readReg t.block r = readReg s.block r) ∧
      ∀ k : Nat, 4 ≤ k → (readReg t.block .status).getLsbD k = (readReg s.block .status).getLsbD k)

/-- 30_encoding.md R83: the pseudo-instructions' expansions and effects: CRC2 leaves ACC as CRCPAIR does, CHKS sets MATCH
exactly for a valid frame, CONV6 converts the 6-byte frame, CLRERR clears ERR and ECODE. -/
def Obligations.PseudoInstructionsHaveTheirEffect : Prop :=
  (∀ (f : Family) (d0 d1 : Byte) (s : State), ∃ t u,
    execAll [.crcinit f, .crcbyte d0, .crcbyte d1] s = .next t ∧ exec (.crcpair f d0 d1) s = .next u ∧
    t.block.acc = u.block.acc) ∧
  (∀ (f : Family) (d0 d1 c : Byte) (s : State), ∃ t,
    execAll [.crcinit f, .crcbyte d0, .crcbyte d1, .crccmp c] s = .next t ∧
    (t.block.matchFlag = true ↔ checksum f d0 d1 = c)) ∧
  (∀ (t0 t1 tc h0 h1 hc : Byte) (s : State), s.resetLine = false →
    steps 2 (issue (writeAt s 0x04 (BitVec.ofNat 32 (t0.toNat * 2 ^ 16 + t1.toNat * 2 ^ 8 + tc.toNat)))
        (issue (writeAt s 0x00 (encode (.convth h0 h1 hc))) s))
      = .next (withResults { s with block := { s.block with arg := t0 ++ t1 ++ tc } }
        (if checksum .B t0 t1 = tc ∧ checksum .B h0 h1 = hc then
            ⟨true, true, false, false, valueSlot (checksum .B t0 t1) .temperature .B (word16 t0 t1),
              valueSlot (checksum .B h0 h1) .humidity .B (word16 h0 h1)⟩
          else ⟨false, false, false, false, emptySlot (checksum .B t0 t1), emptySlot (checksum .B h0 h1)⟩))) ∧
  (∀ s : State, s.resetLine = false → step (issue (writeAt s 0x08 0x00000080) s)
    = .next { s with block := { s.block with err := false, ecode := 0 } })

/-- Headline: every step keeps the invariants of the error fields (10_state.md R29) and of the result group (R34), from every
state that meets them. -/
def Obligations.EveryStepKeepsTheStateConsistent : Prop :=
  ∀ s t : State, s.Consistent → step s = .next t → t.Consistent

/-- Headline: every step keeps it true that a slot with a value holds the exact numerator, the denominator and the rounded
value of a conversion of the raw code it holds (41_convert.md R128). With ResetIsConsistent, no value that the block ever
reports is anything else. -/
def Obligations.EveryStepKeepsValuesExplained : Prop :=
  ∀ s t : State, s.Explained → step s = .next t → t.Explained
end

