-- ==== Sys2Proof/Laws/Convert.lean ====
section
/-!
SUPPORT. The small lemmas of the conversions: the masked code as arithmetic, the division for a positive divisor, and the
fields a conversion writes.
-/
namespace Sys2Proof.Machine

theorem fdiv_of_pos (a : Int) {b : Int} (h : 0 < b) : fdiv a b = a / b := by
  rw [fdiv, Int.fdiv_eq_ediv_of_nonneg a (le_of_lt h)]

@[simp] theorem masked_B (raw : Raw) : masked .B raw = raw.toNat := rfl

/-- Clearing the two low bits, as arithmetic (41_convert.md R121). -/
theorem masked_A (raw : Raw) : masked .A raw = raw.toNat / 4 * 4 := by
  have h : raw &&& (0xFFFC : Raw) = (raw >>> 2) <<< 2 := by
    apply BitVec.eq_of_getLsbD_eq
    intro i hi
    interval_cases i <;> simp
  have := raw.isLt
  rw [masked, h, BitVec.toNat_shiftLeft, BitVec.toNat_ushiftRight, Nat.shiftLeft_eq, Nat.shiftRight_eq_div_pow]
  omega

@[simp] theorem conv_temperature (fam : Family) (raw : Raw) : conv .temperature fam raw = convT fam raw := rfl
@[simp] theorem conv_humidity (fam : Family) (raw : Raw) : conv .humidity fam raw = convH fam raw := rfl

/-- The denominator is one of three constants (41_convert.md R124). -/
theorem conv_den (q : Quantity) (fam : Family) (raw : Raw) :
    (conv q fam raw).2 = 6553600 ∨ (conv q fam raw).2 = 65536 ∨ (conv q fam raw).2 = 65535 := by
  cases q <;> cases fam <;> simp [convT, convH]

@[simp] theorem writeConv_crc (q : Quantity) (fam : Family) (raw : Raw) (sl : Slot) : (writeConv q fam raw sl).crc = sl.crc := rfl
@[simp] theorem writeConv_raw (q : Quantity) (fam : Family) (raw : Raw) (sl : Slot) :
    (writeConv q fam raw sl).raw = zextRaw raw := rfl
@[simp] theorem writeConv_num (q : Quantity) (fam : Family) (raw : Raw) (sl : Slot) :
    (writeConv q fam raw sl).num = encS32 (conv q fam raw).1 := rfl
@[simp] theorem writeConv_den (q : Quantity) (fam : Family) (raw : Raw) (sl : Slot) :
    (writeConv q fam raw sl).den = BitVec.ofNat 32 (conv q fam raw).2 := rfl
@[simp] theorem writeConv_fx (q : Quantity) (fam : Family) (raw : Raw) (sl : Slot) :
    (writeConv q fam raw sl).fx = encS32 (fxRound (conv q fam raw).1 (conv q fam raw).2) := rfl

/-- A raw code stays a 16-bit number in its 32-bit register (10_state.md R34 (b)). -/
theorem zextRaw_lt (r : Raw) : (zextRaw r).toNat < 0x10000 := by
  have := r.isLt
  simp only [zextRaw, BitVec.toNat_setWidth]
  omega

end Sys2Proof.Machine
end

