-- ==== Sys2Proof/Laws/Crc8.lean ====
section
/-!
SUPPORT. The small lemmas of the CRC functions: one shift is linear over XOR, keeps zero and is injective, and so do any
number of them; a byte step is eight shifts of the XOR.
-/
namespace Sys2Proof.Machine

@[simp] theorem crcShift_zero : crcShift 0 = 0 := by decide

theorem crcShift_xor (a b : Byte) : crcShift (a ^^^ b) = crcShift a ^^^ crcShift b := by
  simp only [crcShift, BitVec.getLsbD_xor, BitVec.setWidth_xor, BitVec.shiftLeft_xor_distrib]
  cases a.getLsbD 7 <;> cases b.getLsbD 7 <;> simp [BitVec.setWidth_xor] <;> try ac_rfl
  rw [← BitVec.xor_assoc, BitVec.xor_assoc (a <<< 1), BitVec.xor_comm 49#8, BitVec.xor_assoc, BitVec.xor_assoc, BitVec.xor_self, BitVec.xor_zero]

theorem crcShift_eq_zero {a : Byte} (h : crcShift a = 0) : a = 0 := by
  revert a; decide

theorem crcShift_injective {a b : Byte} (h : crcShift a = crcShift b) : a = b := by
  have hz : crcShift (a ^^^ b) = 0 := by rw [crcShift_xor, h, BitVec.xor_self]; rfl
  exact BitVec.xor_eq_zero_iff.1 (crcShift_eq_zero hz)

theorem iterate_crcShift_zero (n : Nat) : iterate crcShift n 0 = 0 := by
  induction n with
  | zero => rfl
  | succ n ih => rw [iterate, crcShift_zero, ih]

theorem iterate_crcShift_xor (n : Nat) (a b : Byte) :
    iterate crcShift n (a ^^^ b) = iterate crcShift n a ^^^ iterate crcShift n b := by
  induction n generalizing a b with
  | zero => rfl
  | succ n ih => simp only [iterate, crcShift_xor, ih]

theorem iterate_crcShift_injective (n : Nat) {a b : Byte} (h : iterate crcShift n a = iterate crcShift n b) : a = b := by
  induction n generalizing a b with
  | zero => exact h
  | succ n ih => exact crcShift_injective (ih h)

theorem crc8Step_eq (acc b : Byte) : crc8Step acc b = iterate crcShift 8 (acc ^^^ b) := rfl

theorem check3_fst (fam : Family) (d0 d1 c : Byte) : (check3 fam d0 d1 c).1 = crc8Pair (seed fam) d0 d1 := rfl

theorem check3_snd (fam : Family) (d0 d1 c : Byte) :
    (check3 fam d0 d1 c).2 = (crc8Pair (seed fam) d0 d1 == c) := rfl

end Sys2Proof.Machine
end

