-- ==== Sys2Proof/Laws/Decode.lean ====
section
/-!
SUPPORT. The small lemmas of the encoding: splitting a word into fields and joining them are inverse, no two rows of the
opcode table fit one word.
-/
namespace Sys2Proof

@[simp] theorem Family.ofBit_bit (f : Family) : Family.ofBit f.bit = f := by cases f <;> rfl

@[simp] theorem Family.bit_ofBit (b : BitVec 1) : (Family.ofBit b).bit = b := by revert b; decide

theorem CommandFields.toWord_getLsbD (f : CommandFields) (i : Nat) :
    f.toWord.getLsbD i =
      if i < 8 then f.b2.getLsbD i else if i < 16 then f.b1.getLsbD (i - 8) else if i < 24 then f.b0.getLsbD (i - 16)
      else if i < 27 then f.rsv.getLsbD (i - 24) else if i < 28 then f.fam.getLsbD (i - 27) else f.op.getLsbD (i - 28) := by
  simp only [CommandFields.toWord, BitVec.getLsbD_append]
  repeat' split
  all_goals first | rfl | omega

/-- Splitting the word of some fields gives them back (30_encoding.md R71). -/
@[simp] theorem CommandFields.ofWord_toWord (f : CommandFields) : CommandFields.ofWord f.toWord = f := by
  obtain ⟨op, fam, rsv, b0, b1, b2⟩ := f
  simp only [CommandFields.ofWord, CommandFields.mk.injEq]
  refine ⟨?_, ?_, ?_, ?_, ?_, ?_⟩ <;> apply BitVec.eq_of_getLsbD_eq <;> intro i hi <;>
    simp only [BitVec.getLsbD_extractLsb', toWord_getLsbD, hi, decide_true, Bool.true_and] <;>
    repeat' split
  all_goals first | omega | (congr 1; omega)

/-- Joining the fields of a word gives it back (30_encoding.md R71). -/
@[simp] theorem CommandFields.toWord_ofWord (w : Word) : (CommandFields.ofWord w).toWord = w := by
  apply BitVec.eq_of_getLsbD_eq
  intro i hi
  rw [toWord_getLsbD]
  simp only [CommandFields.ofWord, BitVec.getLsbD_extractLsb']
  repeat' split
  all_goals rw [decide_eq_true (by omega), Bool.true_and]; congr 1; omega

/-- No word fits two rows of the opcode table. -/
theorem opcodeTable_disjoint :
    opcodeTable.Pairwise fun r q => r.pattern &&& (r.mask &&& q.mask) ≠ q.pattern &&& (r.mask &&& q.mask) := by
  decide

end Sys2Proof
end

