-- ==== Sys2Proof/Laws/State.lean ====
section
/-!
SUPPORT. One lemma per field per update of State, so that no later proof unfolds a record update.
-/
namespace Sys2Proof.Machine

@[simp] theorem State.setArg_block (s : State) (a : BitVec 24) : (s.setArg a).block = { s.block with arg := a } := rfl
@[simp] theorem State.setArg_window (s : State) (a : BitVec 24) : (s.setArg a).window = s.window := rfl
@[simp] theorem State.setArg_resetLine (s : State) (a : BitVec 24) : (s.setArg a).resetLine = s.resetLine := rfl
@[simp] theorem State.setArg_pending (s : State) (a : BitVec 24) : (s.setArg a).pending = s.pending := rfl
@[simp] theorem State.setArg_replies (s : State) (a : BitVec 24) : (s.setArg a).replies = s.replies := rfl
@[simp] theorem State.setArg_base (s : State) (a : BitVec 24) : (s.setArg a).base = s.base := rfl

@[simp] theorem State.setAcc_block (s : State) (a : Byte) : (s.setAcc a).block = { s.block with acc := a } := rfl
@[simp] theorem State.setAcc_window (s : State) (a : Byte) : (s.setAcc a).window = s.window := rfl
@[simp] theorem State.setAcc_resetLine (s : State) (a : Byte) : (s.setAcc a).resetLine = s.resetLine := rfl
@[simp] theorem State.setAcc_pending (s : State) (a : Byte) : (s.setAcc a).pending = s.pending := rfl
@[simp] theorem State.setAcc_replies (s : State) (a : Byte) : (s.setAcc a).replies = s.replies := rfl
@[simp] theorem State.setAcc_base (s : State) (a : Byte) : (s.setAcc a).base = s.base := rfl

@[simp] theorem State.setMatch_block (s : State) (m : Bool) : (s.setMatch m).block = { s.block with matchFlag := m } := rfl
@[simp] theorem State.setMatch_window (s : State) (m : Bool) : (s.setMatch m).window = s.window := rfl
@[simp] theorem State.setMatch_resetLine (s : State) (m : Bool) : (s.setMatch m).resetLine = s.resetLine := rfl
@[simp] theorem State.setMatch_pending (s : State) (m : Bool) : (s.setMatch m).pending = s.pending := rfl
@[simp] theorem State.setMatch_replies (s : State) (m : Bool) : (s.setMatch m).replies = s.replies := rfl
@[simp] theorem State.setMatch_base (s : State) (m : Bool) : (s.setMatch m).base = s.base := rfl

@[simp] theorem State.setError_block (s : State) (e : Bool) (k : BitVec 4) : (s.setError e k).block = { s.block with err := e, ecode := k } := rfl
@[simp] theorem State.setError_window (s : State) (e : Bool) (k : BitVec 4) : (s.setError e k).window = s.window := rfl
@[simp] theorem State.setError_resetLine (s : State) (e : Bool) (k : BitVec 4) : (s.setError e k).resetLine = s.resetLine := rfl
@[simp] theorem State.setError_pending (s : State) (e : Bool) (k : BitVec 4) : (s.setError e k).pending = s.pending := rfl
@[simp] theorem State.setError_replies (s : State) (e : Bool) (k : BitVec 4) : (s.setError e k).replies = s.replies := rfl
@[simp] theorem State.setError_base (s : State) (e : Bool) (k : BitVec 4) : (s.setError e k).base = s.base := rfl

@[simp] theorem State.setResults_block (s : State) (r : Results) : (s.setResults r).block = { s.block with results := r } := rfl
@[simp] theorem State.setResults_window (s : State) (r : Results) : (s.setResults r).window = s.window := rfl
@[simp] theorem State.setResults_resetLine (s : State) (r : Results) : (s.setResults r).resetLine = s.resetLine := rfl
@[simp] theorem State.setResults_pending (s : State) (r : Results) : (s.setResults r).pending = s.pending := rfl
@[simp] theorem State.setResults_replies (s : State) (r : Results) : (s.setResults r).replies = s.replies := rfl
@[simp] theorem State.setResults_base (s : State) (r : Results) : (s.setResults r).base = s.base := rfl

@[simp] theorem State.reply_block (s : State) (v : Word) : (s.reply v).block = s.block := rfl
@[simp] theorem State.reply_window (s : State) (v : Word) : (s.reply v).window = s.window := rfl
@[simp] theorem State.reply_resetLine (s : State) (v : Word) : (s.reply v).resetLine = s.resetLine := rfl
@[simp] theorem State.reply_pending (s : State) (v : Word) : (s.reply v).pending = s.pending := rfl
@[simp] theorem State.reply_replies (s : State) (v : Word) : (s.reply v).replies = s.replies ++ [v] := rfl
@[simp] theorem State.reply_base (s : State) (v : Word) : (s.reply v).base = s.base := rfl

@[simp] theorem State.withPending_block (s : State) (l : List Access) : (s.withPending l).block = s.block := rfl
@[simp] theorem State.withPending_window (s : State) (l : List Access) : (s.withPending l).window = s.window := rfl
@[simp] theorem State.withPending_resetLine (s : State) (l : List Access) : (s.withPending l).resetLine = s.resetLine := rfl
@[simp] theorem State.withPending_pending (s : State) (l : List Access) : (s.withPending l).pending = l := rfl
@[simp] theorem State.withPending_replies (s : State) (l : List Access) : (s.withPending l).replies = s.replies := rfl
@[simp] theorem State.withPending_base (s : State) (l : List Access) : (s.withPending l).base = s.base := rfl

@[simp] theorem State.assertReset_block (s : State) : (s.assertReset).block = s.block := rfl
@[simp] theorem State.assertReset_window (s : State) : (s.assertReset).window = s.window := rfl
@[simp] theorem State.assertReset_resetLine (s : State) : (s.assertReset).resetLine = true := rfl
@[simp] theorem State.assertReset_pending (s : State) : (s.assertReset).pending = s.pending := rfl
@[simp] theorem State.assertReset_replies (s : State) : (s.assertReset).replies = s.replies := rfl
@[simp] theorem State.assertReset_base (s : State) : (s.assertReset).base = s.base := rfl

@[simp] theorem State.releaseReset_block (s : State) : (s.releaseReset).block = .reset := rfl
@[simp] theorem State.releaseReset_window (s : State) : (s.releaseReset).window = s.window := rfl
@[simp] theorem State.releaseReset_resetLine (s : State) : (s.releaseReset).resetLine = false := rfl
@[simp] theorem State.releaseReset_pending (s : State) : (s.releaseReset).pending = s.pending := rfl
@[simp] theorem State.releaseReset_replies (s : State) : (s.releaseReset).replies = s.replies := rfl
@[simp] theorem State.releaseReset_base (s : State) : (s.releaseReset).base = s.base := rfl

end Sys2Proof.Machine
end

