-- ==== Sys2Proof/Laws/Exec.lean ====
section
/-!
SUPPORT. What a command can do, said once: it writes ACC, or MATCH, or the whole result group, and nothing else, and it
always completes. A proof about all commands cites these and unfolds no meaning.
-/
namespace Sys2Proof.Machine

/-- The result group a result command leaves, from its operands and ARG alone; `r` for any other command. -/
def resultGroup (i : Instr) (arg : BitVec 24) (r : Results) : Results :=
  match i with
  | .crcinit _ => r
  | .crcbyte _ => r
  | .crcpair _ _ _ => r
  | .crccmp _ => r
  | .chk3 fam d0 d1 c => frameResults fam d0 d1 c (acceptRaw (word16 d0 d1))
  | .convt fam d0 d1 c => frameResults fam d0 d1 c (acceptConv .temperature fam (word16 d0 d1))
  | .convh fam d0 d1 c => frameResults fam d0 d1 c (acceptConv .humidity fam (word16 d0 d1))
  | .convth h0 h1 hc => combinedResults arg h0 h1 hc
  | .htrstat s0 s1 c => frameResults .B s0 s1 c (acceptHeater (word16 s0 s1))
  | .rawt fam r0 r1 => rawResults .temperature fam (word16 r0 r1)
  | .rawh fam r0 r1 => rawResults .humidity fam (word16 r0 r1)

/-- ACC after a command. -/
def accAfter (i : Instr) (acc : Byte) : Byte :=
  match i with
  | .crcinit fam => seed fam
  | .crcbyte b => crc8Step acc b
  | .crcpair fam d0 d1 => crc8Pair (seed fam) d0 d1
  | .crccmp _ => acc
  | .chk3 _ _ _ _ => acc
  | .convt _ _ _ _ => acc
  | .convh _ _ _ _ => acc
  | .convth _ _ _ => acc
  | .htrstat _ _ _ => acc
  | .rawt _ _ _ => acc
  | .rawh _ _ _ => acc

/-- MATCH after a command. -/
def matchAfter (i : Instr) (acc : Byte) (m : Bool) : Bool :=
  match i with
  | .crccmp c => matchOf acc c
  | .crcinit _ => m
  | .crcbyte _ => m
  | .crcpair _ _ _ => m
  | .chk3 _ _ _ _ => m
  | .convt _ _ _ _ => m
  | .convh _ _ _ _ => m
  | .convth _ _ _ => m
  | .htrstat _ _ _ => m
  | .rawt _ _ _ => m
  | .rawh _ _ _ => m

/-- Every command completes, and this is everything it does. -/
theorem exec_eq (i : Instr) (s : State) :
    exec i s = .next (((s.setAcc (accAfter i s.block.acc)).setMatch (matchAfter i s.block.acc s.block.matchFlag)).setResults
      (resultGroup i s.block.arg s.block.results)) := by
  cases i <;> rfl

theorem resultGroup_of_not_result {i : Instr} (h : i.isResult = false) (arg : BitVec 24) (r : Results) :
    resultGroup i arg r = r := by
  cases i <;> simp_all [Instr.isResult, resultGroup]

theorem resultGroup_of_result {i : Instr} (h : i.isResult = true) (arg : BitVec 24) (r r' : Results) :
    resultGroup i arg r = resultGroup i arg r' := by
  cases i <;> simp_all [Instr.isResult, resultGroup]

theorem accAfter_of_result {i : Instr} (h : i.isResult = true) (acc : Byte) : accAfter i acc = acc := by
  cases i <;> simp_all [Instr.isResult, accAfter]

theorem matchAfter_of_result {i : Instr} (h : i.isResult = true) (acc : Byte) (m : Bool) : matchAfter i acc m = m := by
  cases i <;> simp_all [Instr.isResult, matchAfter]

/-- A one-frame command's results, by whether the frame is valid (42_frame.md R140, R141). -/
theorem frameResults_eq (fam : Family) (d0 d1 c : Byte) (accept : Results → Results) :
    frameResults fam d0 d1 c accept =
      if crc8Pair (seed fam) d0 d1 = c then
        accept { Results.empty with slot0 := { Slot.empty with crc := crc8Pair (seed fam) d0 d1 } }
      else { Results.empty with slot0 := { Slot.empty with crc := crc8Pair (seed fam) d0 d1 } } := by
  simp only [frameResults, check3, beq_iff_eq]
  rfl

/-- CONVTH's results, by whether both frames are valid (42_frame.md R145). -/
theorem combinedResults_eq (arg : BitVec 24) (h0 h1 hc : Byte) :
    combinedResults arg h0 h1 hc =
      if crc8Pair (seed .B) (argByte0 arg) (argByte1 arg) = argByte2 arg ∧ crc8Pair (seed .B) h0 h1 = hc then
        { v0 := true, v1 := true, hv := false, htr := false
          slot0 := writeConv .temperature .B (word16 (argByte0 arg) (argByte1 arg))
            { Slot.empty with crc := crc8Pair (seed .B) (argByte0 arg) (argByte1 arg) }
          slot1 := writeConv .humidity .B (word16 h0 h1) { Slot.empty with crc := crc8Pair (seed .B) h0 h1 } }
      else
        { Results.empty with
          slot0 := { Slot.empty with crc := crc8Pair (seed .B) (argByte0 arg) (argByte1 arg) }
          slot1 := { Slot.empty with crc := crc8Pair (seed .B) h0 h1 } } := by
  simp only [combinedResults, check3, Bool.and_eq_true, beq_iff_eq]
  rfl

end Sys2Proof.Machine
end

