-- ==== Sys2Proof/Laws/PerInstr.lean ====
section
/-!
SUPPORT. Per instruction: the fields a command is encoded in are those of a legal command word (30_encoding.md R74 to R76),
whatever its operands.
-/
namespace Sys2Proof.Laws.Encodable

/-- The command's fields pass every check of 30_encoding.md R75 and R76. -/
def Statement (i : Instr) : Prop := i.fields.wellFormed = true

theorem crcinit (fam : Family) : Statement (.crcinit fam) := by cases fam <;> rfl
theorem crcbyte (b : Byte) : Statement (.crcbyte b) := rfl
theorem crcpair (fam : Family) (d0 d1 : Byte) : Statement (.crcpair fam d0 d1) := by cases fam <;> rfl
theorem crccmp (c : Byte) : Statement (.crccmp c) := rfl
theorem chk3 (fam : Family) (d0 d1 c : Byte) : Statement (.chk3 fam d0 d1 c) := by cases fam <;> rfl
theorem convt (fam : Family) (d0 d1 c : Byte) : Statement (.convt fam d0 d1 c) := by cases fam <;> rfl
theorem convh (fam : Family) (d0 d1 c : Byte) : Statement (.convh fam d0 d1 c) := by cases fam <;> rfl
theorem convth (h0 h1 hc : Byte) : Statement (.convth h0 h1 hc) := rfl
theorem htrstat (s0 s1 c : Byte) : Statement (.htrstat s0 s1 c) := rfl
theorem rawt (fam : Family) (r0 r1 : Byte) : Statement (.rawt fam r0 r1) := by cases fam <;> rfl
theorem rawh (fam : Family) (r0 r1 : Byte) : Statement (.rawh fam r0 r1) := by cases fam <;> rfl

end Sys2Proof.Laws.Encodable
end

