-- ==== Sys2Proof/Laws/Step.lean ====
section
/-!
SUPPORT. What an access and a step can do, said once. A proof about all steps cites `step_cases` and unfolds neither `step`
nor `performAccess`.
-/
namespace Sys2Proof.Machine

/-- The register map has no hole: every aligned offset in the window is a register's (20_memory.md R60). -/
theorem Reg.ofOffset_isSome {n : Nat} (h : n < 64) (h4 : n % 4 = 0) : (Reg.ofOffset n).isSome = true := by
  revert n; decide

@[simp] theorem Reg.ofOffset_offset (r : Reg) : Reg.ofOffset r.offset = some r := by cases r <;> rfl

theorem Access.legal_iff (base : Nat) (a : Access) :
    a.legal base = true ↔ a.width = 32 ∧ base ≤ a.addr ∧ a.addr < base + 64 ∧ (a.addr - base) % 4 = 0 := by
  simp [Access.legal, and_assoc]

theorem Access.target_of_legal {base : Nat} {a : Access} (h : a.legal base = true) : ∃ r, a.target base = some r := by
  obtain ⟨-, h1, h2, h3⟩ := (legal_iff base a).1 h
  rw [← Option.isSome_iff_exists, target, if_pos h]
  exact Reg.ofOffset_isSome (by omega) h3

theorem Access.target_of_illegal {base : Nat} {a : Access} (h : a.legal base = false) : a.target base = none := by
  simp [target, h]

/-- A legal access at a register's own offset reaches that register. -/
theorem Access.target_of_offset {base : Nat} {a : Access} {r : Reg} (hw : a.width = 32) (ha : a.addr = base + r.offset) :
    a.target base = some r := by
  have h : r.offset < 64 ∧ r.offset % 4 = 0 := by cases r <;> decide
  rw [target, if_pos ((legal_iff base a).2 ⟨hw, by omega, by omega, by rw [ha]; simpa using h.2⟩), ha]
  simp

/-- What a step does when an access is pending and reset is not asserted: it performs that access. -/
theorem step_of_pending {s : State} {a : Access} {rest : List Access} (hp : s.pending = a :: rest)
    (hr : s.resetLine = false) : step s = performAccess a (s.withPending rest) := by
  simp [step, hp, hr]

theorem performAccess_read_of_target {s : State} {w d : Nat} {r : Reg} (h : (Access.read w d).target s.base = some r) :
    performAccess (.read w d) s = .next (s.reply (readReg s.block r)) := by
  simp [performAccess, h]

theorem performAccess_write_of_target {s : State} {w d : Nat} {v : Word} {r : Reg}
    (h : (Access.write w d v).target s.base = some r) : performAccess (.write w d v) s = writeReg r v s := by
  simp [performAccess, h]

theorem performAccess_of_no_target {s : State} {a : Access} (h : a.target s.base = none) :
    performAccess a s = .fault (.busError a.addr) := by
  simp [performAccess, h]

/-- A read of a register's own address replies with that register (20_memory.md R52). -/
theorem performAccess_read (s : State) (r : Reg) :
    performAccess (.read 32 (s.base + r.offset)) s = .next (s.reply (readReg s.block r)) := by
  have h : (Access.read 32 (s.base + r.offset)).target s.base = some r := Access.target_of_offset rfl rfl
  simp [performAccess, h]

/-- A write to a register's own address has that register's effect (20_memory.md R54). -/
theorem performAccess_write (s : State) (r : Reg) (v : Word) :
    performAccess (.write 32 (s.base + r.offset) v) s = writeReg r v s := by
  have h : (Access.write 32 (s.base + r.offset) v).target s.base = some r := Access.target_of_offset rfl rfl
  simp [performAccess, h]

/-- execute(w): a CMD write runs the decoded command or takes the illegal-command outcome (30_encoding.md R77). -/
theorem execute_cases (w : Word) (s : State) :
    (∃ i, decode w = .command i ∧ execute w s = exec i s) ∨
      (∃ c, decode w = .illegal c ∧ execute w s = .next (takeIllegal c s)) := by
  unfold execute
  cases h : decode w with
  | command i => exact .inl ⟨i, rfl, rfl⟩
  | illegal c => exact .inr ⟨c, rfl, rfl⟩

/-- Every legal write completes, in one of five ways (20_memory.md R54). -/
theorem writeReg_cases (r : Reg) (v : Word) (s : State) :
    (∃ i, r = .cmd ∧ decode v = .command i ∧ writeReg r v s = exec i s) ∨
      (∃ c, r = .cmd ∧ decode v = .illegal c ∧ writeReg r v s = .next (takeIllegal c s)) ∨
      (r = .arg ∧ writeReg r v s = .next (s.setArg (argOfWord v))) ∨
      (r = .status ∧ clearsError v = true ∧ writeReg r v s = .next (clearError s)) ∨
      (r ≠ .cmd ∧ r ≠ .arg ∧ (r = .status → clearsError v = false) ∧ writeReg r v s = .next s) := by
  cases r
  case cmd =>
    rcases execute_cases v s with ⟨i, h, e⟩ | ⟨c, h, e⟩
    · exact .inl ⟨i, rfl, h, e⟩
    · exact .inr (.inl ⟨c, rfl, h, e⟩)
  case status => cases h : clearsError v <;> simp [writeReg, h]
  all_goals simp [writeReg]

/-- Everything a step can do when it answers a next state: it serves the first pending access, which is legal, while reset
is not asserted; a read replies, a write goes to its register. -/
theorem step_cases {s t : State} (h : step s = .next t) :
    ∃ a rest r, s.pending = a :: rest ∧ s.resetLine = false ∧ a.target s.base = some r ∧
      ((∃ w d, a = .read w d ∧ t = (s.withPending rest).reply (readReg s.block r)) ∨
        (∃ w d v, a = .write w d v ∧ writeReg r v (s.withPending rest) = .next t)) := by
  unfold step at h
  split at h
  · cases h
  · rename_i a rest hp
    split at h
    · cases h
    · rename_i hr
      refine ⟨a, rest, ?_⟩
      cases ht : a.target s.base with
      | none =>
        simp only [performAccess, State.withPending_base, ht] at h
        cases h
      | some r =>
        refine ⟨r, hp, by simpa using hr, rfl, ?_⟩
        cases a with
        | read w d =>
          simp only [performAccess, State.withPending_base, ht, State.withPending_block, Host.Outcome.next.injEq] at h
          exact .inl ⟨w, d, rfl, h.symm⟩
        | write w d v =>
          simp only [performAccess, State.withPending_base, ht] at h
          exact .inr ⟨w, d, v, rfl, h⟩

end Sys2Proof.Machine
end

