-- ==== Sys2Proof/Tests/Slice0.lean ====
section
/-!
SUPPORT. Tests on fixed values, each from the spec's own vectors or words written out from its encoding tables, and one
witness per statement with hypotheses. Sources: V<n> and W<n> are tables of spec/95_test_vectors.md.
-/
namespace Sys2Proof.Tests
open Sys2Proof.Machine Sys2Proof.Spec

/-! ## Well-formedness: an ill-formed term for each check -/

theorem test_opcode_zero_is_reserved : CommandFields.opcodeDefined ⟨0x0, 0, 0, 0, 0, 0⟩ = false := by decide
theorem test_opcode_twelve_is_reserved : CommandFields.opcodeDefined ⟨0xC, 0, 0, 0, 0, 0⟩ = false := by decide
theorem test_rsv_must_be_zero : CommandFields.reservedZero ⟨0x5, 0, 1, 0, 0, 0⟩ = false := by decide
theorem test_crcinit_bytes_must_be_zero : CommandFields.reservedZero ⟨0x1, 0, 0, 0, 0, 1⟩ = false := by decide
theorem test_crcbyte_family_must_be_zero : CommandFields.reservedZero ⟨0x2, 1, 0, 0, 0, 0x12⟩ = false := by decide
theorem test_crcpair_b2_must_be_zero : CommandFields.reservedZero ⟨0x3, 0, 0, 0xBE, 0xEF, 1⟩ = false := by decide
theorem test_convth_family_a_is_unsupported : CommandFields.familySupported ⟨0x8, 0, 0, 0x62, 0x2B, 0x61⟩ = false := by decide
theorem test_ill_formed_fields : CommandFields.wellFormed ⟨0x9, 0, 0, 0x20, 0, 0x50⟩ = false := by decide
theorem test_no_row_fits : wellFormedWord 0x80622B61 = false := by decide
theorem test_well_formed_word : wellFormedWord 0x88622B61 = true := by decide

/-! ## Decoding: a word written out bit by bit from 30_encoding.md R71 and R74 for every command -/

theorem test_decode_crcinit : decode 0b0001_1_000_00000000_00000000_00000000 = .command (.crcinit .B) := by decide
theorem test_decode_crcbyte : decode 0b0010_0_000_00000000_00000000_10111110 = .command (.crcbyte 0xBE) := by decide
theorem test_decode_crcpair : decode 0b0011_1_000_10111110_11101111_00000000 = .command (.crcpair .B 0xBE 0xEF) := by decide
theorem test_decode_crccmp : decode 0b0100_0_000_00000000_00000000_10010010 = .command (.crccmp 0x92) := by decide
theorem test_decode_chk3 : decode 0b0101_0_000_10111110_11101111_10010010 = .command (.chk3 .A 0xBE 0xEF 0x92) := by decide
theorem test_decode_convt : decode 0b0110_1_000_10111110_11101111_10010010 = .command (.convt .B 0xBE 0xEF 0x92) := by decide
theorem test_decode_convh : decode 0b0111_0_000_01101000_00111010_01111100 = .command (.convh .A 0x68 0x3A 0x7C) := by decide
theorem test_decode_convth : decode 0b1000_1_000_01100010_00101011_01100001 = .command (.convth 0x62 0x2B 0x61) := by decide
theorem test_decode_htrstat : decode 0b1001_1_000_00100000_00000000_01011101 = .command (.htrstat 0x20 0x00 0x5D) := by decide
theorem test_decode_rawt : decode 0b1010_1_000_11111111_11111110_00000000 = .command (.rawt .B 0xFF 0xFE) := by decide
theorem test_decode_rawh : decode 0b1011_0_000_10000000_00000001_00000000 = .command (.rawh .A 0x80 0x01) := by decide

/-- V5: opcode before field before family. -/
theorem test_decode_priority : decode 0x01000000 = .illegal .reservedOpcode ∧ decode 0x81000000 = .illegal .reservedField ∧
    decode 0x80622B61 = .illegal .familyUnsupported := by decide

theorem test_table_word : decodeTableWord 32 0x88622B61 = some (.convth 0x62 0x2B 0x61) ∧ decodeTableWord 32 0 = none := by
  decide

/-! ## One step -/

/-- A state in window 3 (BASE = 192), with the block and the accesses given. -/
def start (b : Block) (l : List Access) : State := ⟨b, 3, false, l, []⟩

def blockOf : Host.Outcome State Fault Refusal → Option Block
  | .next t => some t.block
  | .fault _ => none
  | .refused _ => none

def repliesOf : Host.Outcome State Fault Refusal → Option (List Word)
  | .next t => some t.replies
  | .fault _ => none
  | .refused _ => none

/-- The block after one CMD write of `w`. -/
def after (b : Block) (w : Word) : Option Block := blockOf (step (start b [.write 32 192 w]))

/-- The block at reset with `a` in ACC. -/
def withAcc (a : Byte) : Block := { Block.reset with acc := a }

/-- The block at reset with `a` in ARG. -/
def withArg (a : BitVec 24) : Block := { Block.reset with arg := a }

/-- V2. -/
theorem test_crcinit : after .reset 0x18000000 = some (withAcc 0xFF) := by decide +kernel
/-- V2. -/
theorem test_crcbyte : after (withAcc 0xFF) 0x200000BE = some (withAcc 0x0C) := by decide +kernel
/-- V2: the byte equals ACC. -/
theorem test_crcbyte_residue : after (withAcc 0x92) 0x20000092 = some (withAcc 0x00) := by decide +kernel
/-- V2. -/
theorem test_crcpair : after (withAcc 0x55) 0x38BEEF00 = some (withAcc 0x92) := by decide +kernel
/-- V2. -/
theorem test_crccmp_equal : after (withAcc 0x92) 0x40000092 = some { withAcc 0x92 with matchFlag := true } := by decide +kernel
/-- V2. -/
theorem test_crccmp_different : after { withAcc 0x92 with matchFlag := true } 0x40000093 = some (withAcc 0x92) := by
  decide +kernel
/-- V1, both seeds. -/
theorem test_checksums : crc8Pair 0x00 0x4E 0x85 = 0x6B ∧ crc8Pair 0xFF 0x80 0x10 = 0xE1 := by decide +kernel

/-- V4. -/
theorem test_chk3_valid : (after .reset 0x58BEEF92).map (·.results)
    = some ⟨true, false, false, false, ⟨0x92, 0x0000BEEF, 0x80000000, 0, 0x80000000⟩, Slot.empty⟩ := by decide +kernel
/-- V4: the frame of the other family. -/
theorem test_chk3_wrong_family : (after .reset 0x50BEEF92).map (·.results)
    = some ⟨false, false, false, false, ⟨0x13, 0xFFFFFFFF, 0x80000000, 0, 0x80000000⟩, Slot.empty⟩ := by decide +kernel
/-- V4. -/
theorem test_convt_family_a : (after .reset 0x604E856B).map (·.results)
    = some ⟨true, false, false, false, ⟨0x6B, 0x00004E85, 0x02C05C90, 6553600, 0x00070B2A⟩, Slot.empty⟩ := by decide +kernel
/-- W6 as corrected by 90_conflicts.md C1. -/
theorem test_convt_source_scenario : (after .reset 0x68622BD5).map (·.results)
    = some ⟨false, false, false, false, ⟨0x61, 0xFFFFFFFF, 0x80000000, 0, 0x80000000⟩, Slot.empty⟩ := by decide +kernel
/-- V4. -/
theorem test_convh_family_a : (after .reset 0x70683A7C).map (·.results)
    = some ⟨true, false, false, false, ⟨0x7C, 0x0000683A, 0x002CE358, 65536, 0x002CE358⟩, Slot.empty⟩ := by decide +kernel
/-- V4. -/
theorem test_convh_family_b : (after .reset 0x78683AFD).map (·.results)
    = some ⟨true, false, false, false, ⟨0xFD, 0x0000683A, 0x0028B6A8, 65535, 0x0028B6D1⟩, Slot.empty⟩ := by decide +kernel
/-- V4. -/
theorem test_convth_valid : (after (withArg 0xBEEF92) 0x88622B61).map (·.results)
    = some ⟨true, true, false, false, ⟨0x92, 0x0000BEEF, 0x0055858E, 65535, 0x005585E4⟩,
        ⟨0x61, 0x0000622B, 0x002658CC, 65535, 0x002658F2⟩⟩ := by decide +kernel
/-- V4: one CRC wrong, no slot filled. -/
theorem test_convth_one_bad : (after (withArg 0xBEEF93) 0x88622B61).map (·.results)
    = some ⟨false, false, false, false, ⟨0x92, 0xFFFFFFFF, 0x80000000, 0, 0x80000000⟩,
        ⟨0x61, 0xFFFFFFFF, 0x80000000, 0, 0x80000000⟩⟩ := by decide +kernel
/-- V4: heater on. -/
theorem test_htrstat_on : (after .reset 0x9820005D).map (·.results)
    = some ⟨true, false, true, true, ⟨0x5D, 0x00002000, 0x80000000, 0, 0x80000000⟩, Slot.empty⟩ := by decide +kernel
/-- V4: heater off. -/
theorem test_htrstat_off : (after .reset 0x988010E1).map (·.results)
    = some ⟨true, false, true, false, ⟨0xE1, 0x00008010, 0x80000000, 0, 0x80000000⟩, Slot.empty⟩ := by decide +kernel
/-- V3: a negative value, and the received low bits kept in RAW0. -/
theorem test_rawt_family_a : (after .reset 0xA0000300).map (·.results)
    = some ⟨true, false, false, false, ⟨0x00, 0x00000003, 0xEDB30000, 6553600, 0xFFD12666⟩, Slot.empty⟩ := by decide +kernel
/-- V3. -/
theorem test_rawt_family_b : (after .reset 0xA8622B00).map (·.results)
    = some ⟨true, false, false, false, ⟨0x00, 0x0000622B, 0x00161B92, 65535, 0x00161BA8⟩, Slot.empty⟩ := by decide +kernel
/-- V3. -/
theorem test_rawh_family_a : (after .reset 0xB0FFFF00).map (·.results)
    = some ⟨true, false, false, false, ⟨0x00, 0x0000FFFF, 0x0076FE0C, 65536, 0x0076FE0C⟩, Slot.empty⟩ := by decide +kernel
/-- V3. -/
theorem test_rawh_family_b : (after .reset 0xB8800000).map (·.results)
    = some ⟨true, false, false, false, ⟨0x00, 0x00008000, 0x00320000, 65535, 0x00320032⟩, Slot.empty⟩ := by decide +kernel

/-- V5: the first cause is kept while ERR is set (60_exceptions.md R163). -/
theorem test_illegal_keeps_first_cause : after { Block.reset with err := true, ecode := 1 } 0x90200050
    = some { Block.reset with err := true, ecode := 1 } := by decide +kernel
/-- V6: STATUS = 0x180, a write with bit 7 = 0, then one with bit 7 = 1. -/
theorem test_status_write :
    blockOf (step (start { Block.reset with err := true, ecode := 1 } [.write 32 200 0x7F]))
      = some { Block.reset with err := true, ecode := 1 } ∧
    blockOf (step (start { Block.reset with err := true, ecode := 1 } [.write 32 200 0x80])) = some Block.reset := by
  decide +kernel
/-- V6: bits 31:24 of an ARG write are ignored. -/
theorem test_arg_write : blockOf (step (start .reset [.write 32 196 0xFFBEEF92])) = some (withArg 0xBEEF92) := by decide +kernel
/-- V6: a write to ACC is ignored. -/
theorem test_acc_write_ignored : blockOf (step (start .reset [.write 32 204 0xFF])) = some Block.reset := by decide +kernel
/-- V6 and the STATUS of 95_test_vectors.md P3 after HTRSTAT: V0, HV and HTR. -/
theorem test_reads :
    repliesOf (step (start .reset [.read 32 248])) = some [0x53480001] ∧
    repliesOf (step (start { Block.reset with results := { Results.empty with v0 := true, hv := true, htr := true } }
      [.read 32 200])) = some [0x0000000D] := by decide +kernel
/-- V6: a narrow read, a misaligned read and a write past the window are bus errors. -/
theorem test_bus_errors :
    step (start .reset [.read 8 200]) = .fault (.busError 200) ∧ step (start .reset [.read 32 194]) = .fault (.busError 194) ∧
    step (start .reset [.write 32 256 0]) = .fault (.busError 256) := ⟨rfl, rfl, rfl⟩
/-- The host's own way in: the table's word as the first command after reset. -/
theorem test_fetch_word : blockOf (step (State.reset.withFetchWord 32 0x18000000)) = some (withAcc 0xFF) := by decide +kernel

/-! ## Witnesses: a state and operands that meet every hypothesis of a statement, one for each of its clauses -/

theorem witness_EncodeOfDecodeIsTheWord : decode 0xB8BEEF00 = .command (.rawh .B 0xBE 0xEF) := by decide

theorem witness_DecodeAgreesWithOpcodeTable : (⟨"CONVTH", 0x88000000, 0xFF000000⟩ : TableRow) ∈ opcodeTable := by decide

theorem witness_RegistersReadTheirResetValues : ((0x00, 0) : Nat × Word) ∈ resetTable ∧ ((0x3C, 0) : Nat × Word) ∈ resetTable := by
  decide

theorem witness_StepRunsTheDecodedCommand :
    (State.resetAt 3).resetLine = false ∧ decode 0x10000000 = .command (.crcinit .A) := by decide

theorem witness_IllegalCommandSetsOnlyErrAndEcode : (State.resetAt 3).resetLine = false ∧
    decode 0xFFFFFFFF = .illegal .reservedOpcode ∧ decode 0x11000000 = .illegal .reservedField ∧
    decode 0x90200050 = .illegal .familyUnsupported := by decide

/-- The first and the last register's address, for a read and a write; and each way of not being legal. -/
theorem witness_AccessCompletesExactlyIfLegal : (State.resetAt 3).resetLine = false ∧
    (Access.read 32 192).legal (State.resetAt 3).base = true ∧ (Access.write 32 252 0).legal (State.resetAt 3).base = true ∧
    (Access.read 32 256).legal (State.resetAt 3).base = false ∧ (Access.read 32 188).legal (State.resetAt 3).base = false ∧
    (Access.write 32 193 0).legal (State.resetAt 3).base = false ∧ (Access.read 16 192).legal (State.resetAt 3).base = false := by
  decide

theorem witness_ReadReturnsTheRegister : (State.resetAt 3).resetLine = false ∧
    (0x00, 0) ∈ readTable (State.resetAt 3).block ∧ (0x38, 0x53480001) ∈ readTable (State.resetAt 3).block ∧
    (0x3C, 0) ∈ readTable (State.resetAt 3).block := by decide

/-- A word for each branch of the CMD clause and of the STATUS clause. -/
theorem witness_WriteHasItsRegisterEffect : (State.resetAt 3).resetLine = false ∧
    decode 0x10000000 = .command (.crcinit .A) ∧ decode 0x00000000 = .illegal .reservedOpcode ∧
    (0x80 : Word).getLsbD 7 = true ∧ (0x7F : Word).getLsbD 7 = false := by decide

theorem witness_IdentityIsConstant : (start { Block.reset with err := true } []).resetLine = false := rfl

theorem witness_StepServesOneAccessInOrder :
    step (start .reset [.read 32 248, .write 32 192 0]) = .next ⟨.reset, 3, false, [.write 32 192 0], [0x53480001]⟩ ∧
    step (start .reset [.write 32 192 0x18000000, .read 32 248]) = .next ⟨withAcc 0xFF, 3, false, [.read 32 248], []⟩ :=
  ⟨rfl, rfl⟩

theorem witness_StepExistsExactlyForAServableAccess :
    (State.resetAt 3).pending = [] ∧ (start .reset [.read 32 252]).canServe :=
  ⟨rfl, .read 32 252, [], rfl, by decide, rfl⟩

theorem witness_ReadsAndPlainWritesAreIdempotent : (State.resetAt 3).resetLine = false ∧ 0 < 64 ∧ 0 % 4 = 0 ∧ 60 < 64 ∧ 60 % 4 = 0 := by
  decide

theorem witness_StepDoesNotDependOnTheWindow :
    step (start .reset [.write 32 196 5]) = .next (start (withArg 5) []) ∧
    step (start .reset [.read 32 256]) = .fault (.busError 256) := ⟨rfl, rfl⟩

theorem witness_SeedsDifferByConstant : (check3 .A 0x00 0x00 0x00).2 = true ∧ (check3 .B 0xBE 0xEF 0x92).2 = true := by
  decide +kernel

theorem witness_CrcStepIsLinearAndDetectsBitErrors : (0x12 : Byte) ^^^ 0x34 = 0x34 ^^^ 0x12 ∧ 0 < 8 ∧ 7 < 8 := by decide

/-! Words for the error clauses of the CRC commands. -/

theorem witness_CrcinitLoadsTheSeed :
    (op 0x11000000 = 0x1 ∧ rsv 0x11000000 ≠ 0) ∧ (op 0x10000001 = 0x1 ∧ b2 0x10000001 ≠ 0) := by decide

theorem witness_CrcpairComputesFromTheSeed :
    (op 0x31BEEF00 = 0x3 ∧ rsv 0x31BEEF00 ≠ 0) ∧ (op 0x30BEEF01 = 0x3 ∧ b2 0x30BEEF01 ≠ 0) := by decide

theorem witness_CrccmpComparesTheAccumulator :
    (op 0x48000092 = 0x4 ∧ fam 0x48000092 ≠ 0) ∧ (op 0x40000192 = 0x4 ∧ b1 0x40000192 ≠ 0) := by decide

theorem witness_CrcbyteFeedsOneByte : (op 0x28000012 = 0x2 ∧ fam 0x28000012 ≠ 0) ∧ (op 0x20010012 = 0x2 ∧ b0 0x20010012 ≠ 0) ∧
    (start (withAcc 0xFF) []).block.acc = 0xFF ∧ (0x12 : Byte) ^^^ 0x34 = 0x34 ^^^ 0x12 := by decide

/-! Words for the error clauses of the conversion and frame commands, and a valid and an invalid frame for the effect. -/

theorem witness_RawtConvertsToTemperature :
    (op 0xA1000000 = 0xA ∧ rsv 0xA1000000 ≠ 0) ∧ (op 0xA00000FF = 0xA ∧ b2 0xA00000FF ≠ 0) := by decide

theorem witness_RawhConvertsToHumidity :
    (op 0xB1000000 = 0xB ∧ rsv 0xB1000000 ≠ 0) ∧ (op 0xB0000001 = 0xB ∧ b2 0xB0000001 ≠ 0) := by decide

theorem witness_ChkThreeLatchesValidFrames : (op 0x57000000 = 0x5 ∧ rsv 0x57000000 ≠ 0) ∧ checksum .A 0x00 0x00 = 0x00 ∧
    checksum .A 0x00 0x00 ≠ 0x01 := by decide +kernel

theorem witness_ConvhConvertsValidFrames : (op 0x71000000 = 0x7 ∧ rsv 0x71000000 ≠ 0) ∧ checksum .A 0x68 0x3A = 0x7C ∧
    checksum .A 0x68 0x3A ≠ 0x7D := by decide +kernel

theorem witness_HtrstatDecodesTheHeaterBit : (op 0x99000000 = 0x9 ∧ rsv 0x99000000 ≠ 0) ∧
    (op 0x90200050 = 0x9 ∧ rsv 0x90200050 = 0 ∧ fam 0x90200050 = 0) ∧ checksum .B 0x20 0x00 = 0x5D ∧
    checksum .B 0x20 0x00 ≠ 0x5E := by decide +kernel

theorem witness_NumeratorsStayInTheirRanges : (0x0003 : Raw).toNat ≤ 0x0003 ∧ 0xFFFC ≤ (0xFFFC : Raw).toNat := by decide

/-- A tie, with k = 0: NUM = 1 and DEN = 2^17. -/
theorem witness_FixedPointRoundsToNearest : 0 < 131072 ∧ 2 * ((1 : ℤ) * 2 ^ 16) = (2 * 0 + 1) * ((131072 : ℕ) : ℤ) := by
  norm_num

theorem witness_NoConversionIsATie : (1 : ℤ) ≠ fixed .humidity .B 0x0000 := by decide

theorem witness_FamilyAIgnoresTheLowBits : (0xFFFE : Raw) ≠ 0xFFFF := by decide

theorem witness_ConversionsAreMonotone : (0x0003 : Raw).toNat < (0x0004 : Raw).toNat ∧
    (0x0000 : Raw).toNat / 4 = (0x0003 : Raw).toNat / 4 ∧ (0x0003 : Raw).toNat / 4 < (0x0004 : Raw).toNat / 4 := by decide

theorem witness_ConvtConvertsValidFrames : (op 0x61000000 = 0x6 ∧ rsv 0x61000000 ≠ 0) ∧ (0x00 : Byte) ≠ 0x03 ∧ checksum .B 0xBE 0xEF = 0x92 ∧
    checksum .B 0xBE 0xEF ≠ 0x93 := by decide +kernel

theorem witness_ConvthConvertsBothWordsOrNeither : (op 0x81000000 = 0x8 ∧ rsv 0x81000000 ≠ 0) ∧
    (op 0x80622B61 = 0x8 ∧ rsv 0x80622B61 = 0 ∧ fam 0x80622B61 = 0) ∧ (start (withArg 0xBEEF92) []).block.arg = 0xBEEF92 ∧
    checksum .B 0xBE 0xEF = 0x92 ∧ checksum .B 0x62 0x2B = 0x61 := by decide +kernel

/-- CONVTH on a valid and on a stale ARG: both slots filled, and neither. -/
theorem witness_ResultCommandsLeaveNoPartialResult : (Instr.convth 0x62 0x2B 0x61).isResult = true ∧
    (combinedResults 0xBEEF92 0x62 0x2B 0x61).v0 = true ∧ (combinedResults 0 0x62 0x2B 0x61).v0 = false ∧
    (combinedResults 0 0x62 0x2B 0x61).v1 = false := by decide +kernel

theorem witness_ResultsDependOnlyOnTheCommand : (Instr.convth 0x62 0x2B 0x61).isResult = true ∧
    (start (withAcc 0xFF) []).block.arg = (start .reset []).block.arg ∧ (Instr.rawt .A 0 0).isResult = true := by decide

theorem witness_InvalidFramesGiveSentinels : (0x93 : Byte) ≠ crc8Pair (seedOf .B) 0xBE 0xEF := by decide +kernel

/-- A step that changes V0, one that changes MATCH, one that changes ERR and ECODE by an illegal command and one that changes
them by a STATUS write. -/
theorem witness_FlagsHaveOnlyTheirWriters :
    (blockOf (step (start .reset [.write 32 192 0xA0000000]))).map (·.results.v0) = some true ∧
    (blockOf (step (start .reset [.write 32 192 0x40000000]))).map (·.matchFlag) = some true ∧
    (blockOf (step (start .reset [.write 32 192 0]))).map (·.err) = some true ∧
    (blockOf (step (start { Block.reset with err := true, ecode := 2 } [.write 32 200 0x80]))).map (·.err) = some false := by
  decide +kernel

theorem witness_AccHasOnlyItsWritersAndReaders :
    step (start .reset [.write 32 192 0x18000000]) = .next (start (withAcc 0xFF) []) ∧
    (start (withAcc 0xFF) []).block.acc ≠ (start .reset [.write 32 192 0x18000000]).block.acc := ⟨rfl, by decide⟩

theorem witness_ArgHasOnlyItsWritersAndReaders : (State.resetAt 3).resetLine = false ∧
    ∀ h0 h1 hc, Instr.chk3 .A 0 0 0 ≠ .convth h0 h1 hc := ⟨rfl, by simp⟩

theorem witness_ErrDoesNotBlockAndHasOneClear :
    step (start { Block.reset with err := true, ecode := 2 } [.write 32 200 0x80]) = .next (start .reset []) ∧
    (0x80 : Word).getLsbD 7 = true := ⟨rfl, by decide⟩

/-- A command of each of the three groups completes. -/
theorem witness_CommandsLeaveOtherRegistersAlone :
    exec (.crcinit .B) (start .reset []) = .next (start (withAcc 0xFF) []) ∧
    exec (.crccmp 0x00) (start .reset []) = .next (start { Block.reset with matchFlag := true } []) ∧
    (∃ t, exec (.htrstat 0 0 0) (start .reset []) = .next t) ∧ (Instr.htrstat 0 0 0).isResult = true :=
  ⟨rfl, rfl, ⟨_, rfl⟩, rfl⟩

theorem witness_PseudoInstructionsHaveTheirEffect : (State.resetAt 3).resetLine = false := rfl

/-- A state with an error recorded and a temperature in slot 0, and the step of an illegal command in it. -/
def busyState : State :=
  start { Block.reset with err := true, ecode := 3, results := rawResults .temperature .B 0x622B } [.write 32 192 0]

theorem witness_EveryStepKeepsTheStateConsistent : busyState.Consistent ∧ ∃ t, step busyState = .next t :=
  ⟨⟨⟨by decide, by decide⟩, ⟨fun h => absurd h (by decide), fun _ => ⟨rfl, rfl, rfl, rfl⟩, by decide, by decide, by decide, by decide, by decide, by decide⟩⟩,
    _, rfl⟩

theorem witness_EveryStepKeepsValuesExplained : busyState.Explained ∧ busyState.block.results.slot0.den ≠ 0 ∧
    ∃ t, step busyState = .next t :=
  ⟨⟨fun _ => ⟨.temperature, .B, 0x622B, rfl, rfl, rfl, rfl⟩, fun h => absurd rfl h⟩, by decide, _, rfl⟩

end Sys2Proof.Tests
end

section
/-!
SUPPORT and PROOFS for 00_scope.md: what a host access can touch, when there is no step, and the statements O17 and O18.
-/
namespace Sys2Proof.Machine

/-- A command changes the block alone, by a function of the block alone (30_encoding.md R77). -/
theorem exec_changes_block_only (i : Instr) :
    ∃ f : Block → Block, ∀ s : State, exec i s = .next { s with block := f s.block } :=
  ⟨fun b => { b with
      acc := accAfter i b.acc
      matchFlag := matchAfter i b.acc b.matchFlag
      results := resultGroup i b.arg b.results },
    exec_eq i⟩

/-- A CMD write, legal command or not, changes the block alone, by a function of the block alone (30_encoding.md R77). -/
theorem execute_changes_block_only (w : Word) :
    ∃ f : Block → Block, ∀ s : State, execute w s = .next { s with block := f s.block } := by
  unfold execute
  cases decode w with
  | command i => exact exec_changes_block_only i
  | illegal c => exact ⟨fun b => { b with err := true, ecode := ecodeAfterIllegal b.err b.ecode c }, fun _ => rfl⟩

/-- A register write completes and changes the block alone, by a function of the block alone (20_memory.md R54). -/
theorem writeReg_changes_block_only (r : Reg) (v : Word) :
    ∃ f : Block → Block, ∀ s : State, writeReg r v s = .next { s with block := f s.block } := by
  cases r
  case cmd => exact execute_changes_block_only v
  case arg => exact ⟨fun b => { b with arg := argOfWord v }, fun _ => rfl⟩
  case status =>
    cases h : clearsError v with
    | true => exact ⟨fun b => { b with err := false, ecode := 0 }, fun s => by simp [writeReg, h, clearError, State.setError]⟩
    | false => exact ⟨id, fun s => by simp [writeReg, h]⟩
  all_goals exact ⟨id, fun _ => rfl⟩

/-- Only a legal access reaches a register (20_memory.md R51). -/
theorem Access.legal_of_target {base : Nat} {a : Access} {r : Reg} (h : a.target base = some r) : a.legal base = true := by
  by_contra hl
  simp [target_of_illegal (eq_false_of_ne_true hl)] at h

/-- A legal access completes (20_memory.md R52, R54, 60_exceptions.md R160). -/
theorem performAccess_of_legal {s : State} {a : Access} (h : a.legal s.base = true) : ∃ t, performAccess a s = .next t := by
  obtain ⟨r, ht⟩ := Access.target_of_legal h
  cases a with
  | read w d => exact ⟨_, performAccess_read_of_target ht⟩
  | write w d v =>
    obtain ⟨f, hf⟩ := writeReg_changes_block_only r v
    exact ⟨_, (performAccess_write_of_target ht).trans (hf s)⟩

/-- The block takes no step of its own (00_scope.md R10). -/
theorem step_of_no_pending {s : State} (h : s.pending = []) : step s = .refused .noAccess := by
  simp [step, h]

/-- An access while reset is asserted is refused (70_reset_and_hazards.md R181). -/
theorem step_of_reset_asserted {s : State} {a : Access} {rest : List Access} (hp : s.pending = a :: rest)
    (hr : s.resetLine = true) : step s = .refused .accessDuringReset := by
  simp [step, hp, hr]

/-- The states in which a step completes (60_exceptions.md R160). -/
theorem step_completes_iff (s : State) : (∃ t, step s = .next t) ↔ s.canServe := by
  constructor
  · rintro ⟨t, h⟩
    obtain ⟨a, rest, r, hp, hr, ht, -⟩ := step_cases h
    exact ⟨a, rest, hp, Access.legal_of_target ht, hr⟩
  · rintro ⟨a, rest, hp, hl, hr⟩
    rw [step_of_pending hp hr]
    exact performAccess_of_legal hl

end Sys2Proof.Machine

namespace Sys2Proof.Proofs
open Sys2Proof.Machine

/-- Settles O17: by the kind of the served access. A read replies, a write applies a function of the block to the block,
and neither looks at the accesses that stay pending. -/
theorem stepServesOneAccessInOrder : Obligations.StepServesOneAccessInOrder := by
  intro s t a rest later hp h
  obtain ⟨a', rest', r, hp', hr, ht, hserved⟩ := step_cases h
  obtain ⟨rfl, rfl⟩ := List.cons.inj (hp.symm.trans hp')
  have hlater : step { s with pending := a :: later } = performAccess a (s.withPending later) := step_of_pending rfl hr
  rcases hserved with ⟨w, d, rfl, rfl⟩ | ⟨w, d, v, rfl, hw⟩
  · refine ⟨rfl, rfl, hr, fun _ _ _ => ⟨_, rfl, rfl⟩, nofun, ?_⟩
    exact hlater.trans (performAccess_read_of_target ht)
  · obtain ⟨f, hf⟩ := writeReg_changes_block_only r v
    obtain rfl := Host.Outcome.next.inj ((hf _).symm.trans hw)
    refine ⟨rfl, rfl, hr, nofun, fun _ _ _ _ => rfl, ?_⟩
    exact hlater.trans ((performAccess_write_of_target (s := s.withPending later) ht).trans (hf _))

/-- Settles O18: the two refusals are `step`'s own, and a step completes exactly for a legal access. -/
theorem stepExistsExactlyForAServableAccess : Obligations.StepExistsExactlyForAServableAccess :=
  ⟨fun _ => step_of_no_pending, fun _ _ => step_of_reset_asserted rfl rfl, step_completes_iff⟩

end Sys2Proof.Proofs
end

section
/-!
SUPPORT and PROOFS for 10_state.md: what an access does to the block, what a register reads as when one field of the block is
written, the invariants of the error fields and of the result group, and the statements O8, O9, O16, O51, O52, O53, O55 and
O57.
-/
namespace Sys2Proof.Machine
open Sys2Proof.Spec

/-! ## What a command does to the block -/

/-- The block after a command. -/
def blockAfter (i : Instr) (b : Block) : Block :=
  { b with
    acc := accAfter i b.acc
    matchFlag := matchAfter i b.acc b.matchFlag
    results := resultGroup i b.arg b.results }

/-- A command completes and changes the block alone (30_encoding.md R77). -/
theorem exec_eq_blockAfter (i : Instr) (s : State) : exec i s = .next { s with block := blockAfter i s.block } :=
  exec_eq i s

/-- The commands that write ACC (10_state.md R31). -/
theorem acc_writer_of_accAfter_ne {i : Instr} {acc : Byte} (h : accAfter i acc ≠ acc) :
    (∃ f, i = .crcinit f) ∨ (∃ b, i = .crcbyte b) ∨ ∃ f d0 d1, i = .crcpair f d0 d1 := by
  cases i with
  | crcinit f => exact .inl ⟨f, rfl⟩
  | crcbyte b => exact .inr (.inl ⟨b, rfl⟩)
  | crcpair f d0 d1 => exact .inr (.inr ⟨f, d0, d1, rfl⟩)
  | _ => exact absurd rfl h

/-- Only CRCCMP writes MATCH (10_state.md R28). -/
theorem crccmp_of_matchAfter_ne {i : Instr} {acc : Byte} {m : Bool} (h : matchAfter i acc m ≠ m) : ∃ c, i = .crccmp c := by
  cases i with
  | crccmp c => exact ⟨c, rfl⟩
  | _ => exact absurd rfl h

/-- Only CONVTH reads ARG (10_state.md R24). -/
theorem resultGroup_of_not_convth {i : Instr} (h : ∀ h0 h1 hc, i ≠ .convth h0 h1 hc) (arg arg' : BitVec 24) (r : Results) :
    resultGroup i arg r = resultGroup i arg' r := by
  cases i with
  | convth h0 h1 hc => exact absurd rfl (h h0 h1 hc)
  | _ => rfl

/-- A command that writes ACC writes nothing else. -/
theorem blockAfter_of_acc_writer {i : Instr}
    (h : (∃ f, i = .crcinit f) ∨ (∃ b, i = .crcbyte b) ∨ ∃ f d0 d1, i = .crcpair f d0 d1) (b : Block) :
    blockAfter i b = { b with acc := accAfter i b.acc } := by
  rcases h with ⟨f, rfl⟩ | ⟨d, rfl⟩ | ⟨f, d0, d1, rfl⟩ <;> rfl

/-- CRCCMP writes nothing but MATCH. -/
theorem blockAfter_crccmp (c : Byte) (b : Block) : blockAfter (.crccmp c) b = { b with matchFlag := matchOf b.acc c } := rfl

/-- A result command writes nothing but the result group (10_state.md R33). -/
theorem blockAfter_of_result {i : Instr} (h : i.isResult = true) (b : Block) :
    blockAfter i b = { b with results := resultGroup i b.arg b.results } := by
  rw [blockAfter, accAfter_of_result h, matchAfter_of_result h]

/-! ## What an access does to the block -/

theorem Reg.offset_of_ofOffset {n : Nat} {r : Reg} (h : Reg.ofOffset n = some r) : n = r.offset := by
  unfold Reg.ofOffset at h
  split at h <;> cases h <;> rfl

/-- An access that reaches a register is 32 bits wide and at that register's own address (20_memory.md R51). -/
theorem Access.width_addr_of_target {base : Nat} {a : Access} {r : Reg} (h : a.target base = some r) :
    a.width = 32 ∧ a.addr = base + r.offset := by
  have hl := legal_of_target h
  rw [target, if_pos hl] at h
  obtain ⟨hw, hb, -, -⟩ := (legal_iff base a).1 hl
  exact ⟨hw, by rw [← Reg.offset_of_ofOffset h]; omega⟩

/-- The host's next access is a read of `r`: it returns `r` and changes nothing else (20_memory.md R52). -/
theorem step_issue_readAt {s : State} (hr : s.resetLine = false) (r : Reg) :
    step (issue (readAt s r.offset) s) = .next { s with replies := s.replies ++ [readReg s.block r] } :=
  (step_of_pending (s := issue (readAt s r.offset) s) rfl hr).trans (performAccess_read s r)

/-- The host's next access is a write of `v` to `r`: it has that register's effect (20_memory.md R54). -/
theorem step_issue_writeAt {s : State} (hr : s.resetLine = false) (r : Reg) (v : Word) :
    step (issue (writeAt s r.offset v) s) = writeReg r v s :=
  (step_of_pending (s := issue (writeAt s r.offset v) s) rfl hr).trans (performAccess_write s r v)

/-- `AccessEffect s a b`: serving access `a` in state `s` can leave the block `b`. Only four writes change anything. -/
inductive AccessEffect (s : State) : Access → Block → Prop where
  | unchanged (a : Access) : AccessEffect s a s.block
  | command {w : Word} {i : Instr} (hd : decode w = .command i) : AccessEffect s (writeAt s 0x00 w) (blockAfter i s.block)
  | illegal {w : Word} {c : Cause} (hd : decode w = .illegal c) :
      AccessEffect s (writeAt s 0x00 w) { s.block with err := true, ecode := ecodeAfterIllegal s.block.err s.block.ecode c }
  | argWrite (v : Word) : AccessEffect s (writeAt s 0x04 v) { s.block with arg := argOfWord v }
  | errorClear {v : Word} (hv : clearsError v = true) :
      AccessEffect s (writeAt s 0x08 v) { s.block with err := false, ecode := 0 }

/-- A register write has one of the effects of `AccessEffect` (20_memory.md R54). -/
theorem accessEffect_of_writeReg {s t : State} {r : Reg} {v : Word} {rest : List Access}
    (h : writeReg r v (s.withPending rest) = .next t) : AccessEffect s (writeAt s r.offset v) t.block := by
  rcases writeReg_cases r v (s.withPending rest) with
    ⟨i, rfl, hd, he⟩ | ⟨c, rfl, hd, he⟩ | ⟨rfl, he⟩ | ⟨rfl, hv, he⟩ | ⟨-, -, -, he⟩
  · rw [exec_eq_blockAfter] at he
    obtain rfl := Host.Outcome.next.inj (he.symm.trans h)
    exact .command hd
  all_goals obtain rfl := Host.Outcome.next.inj (he.symm.trans h)
  · exact .illegal hd
  · exact .argWrite v
  · exact .errorClear hv
  · exact .unchanged _

/-- Everything a step can do to the block. -/
theorem step_accessEffect {s t : State} {a : Access} {rest : List Access} (hp : s.pending = a :: rest)
    (h : step s = .next t) : AccessEffect s a t.block := by
  obtain ⟨a', rest', r, hp', -, ht, hserved⟩ := step_cases h
  obtain ⟨rfl, rfl⟩ := List.cons.inj (hp.symm.trans hp')
  rcases hserved with ⟨w, d, rfl, rfl⟩ | ⟨w, d, v, rfl, hw⟩
  · exact .unchanged _
  · obtain ⟨rfl, rfl⟩ := Access.width_addr_of_target ht
    exact accessEffect_of_writeReg hw

/-! ## What the registers read as -/

/-- Writing ACC changes the reading of no other register. -/
theorem readReg_acc_of_ne {r : Reg} (h : r ≠ .acc) (b : Block) (x : Byte) : readReg { b with acc := x } r = readReg b r := by
  cases r with
  | acc => exact absurd rfl h
  | _ => rfl

/-- Writing MATCH changes the reading of STATUS only. -/
theorem readReg_matchFlag_of_ne {r : Reg} (h : r ≠ .status) (b : Block) (m : Bool) :
    readReg { b with matchFlag := m } r = readReg b r := by
  cases r with
  | status => exact absurd rfl h
  | _ => rfl

theorem flagWord_getLsbD (f : Bool) (k : Nat) : (flagWord f).getLsbD k = (decide (k = 0) && f) := by
  cases f <;> simp [flagWord, BitVec.getLsbD_one]

/-- A flag shifted to bit `n` shows in that bit only. -/
theorem flagWord_shiftLeft_getLsbD (f : Bool) {n : Nat} (hn : n < 32) (k : Nat) :
    (flagWord f <<< n).getLsbD k = (decide (k = n) && f) := by
  cases f with
  | false => simp [flagWord]
  | true =>
    rw [Bool.eq_iff_iff]
    simp only [BitVec.getLsbD_shiftLeft, flagWord_getLsbD, Bool.and_true, Bool.and_eq_true, Bool.not_eq_true',
      decide_eq_true_eq, decide_eq_false_iff_not]
    omega

theorem ecode_shiftLeft_getLsbD (e : BitVec 4) (k : Nat) :
    (e.setWidth 32 <<< 8).getLsbD k = (!decide (k < 8) && e.getLsbD (k - 8)) := by
  by_cases hk : k < 32
  · simp [hk]
  · simp [hk, BitVec.getLsbD_of_ge e (k - 8) (by omega)]

/-- The bits of STATUS (10_state.md R25). -/
theorem statusWord_getLsbD (b : Block) (k : Nat) :
    (statusWord b).getLsbD k = (decide (k = 0) && b.results.v0 || decide (k = 1) && b.results.v1
      || decide (k = 2) && b.results.hv || decide (k = 3) && b.results.htr || decide (k = 4) && b.matchFlag
      || decide (k = 7) && b.err || !decide (k < 8) && b.ecode.getLsbD (k - 8)) := by
  simp only [statusWord, BitVec.getLsbD_or, flagWord_getLsbD, flagWord_shiftLeft_getLsbD, ecode_shiftLeft_getLsbD,
    Nat.reduceLT]

/-- MATCH is bit 4 of STATUS and shows in no other bit. -/
theorem statusWord_matchFlag_getLsbD_of_ne {k : Nat} (h : k ≠ 4) (b : Block) (m : Bool) :
    (statusWord { b with matchFlag := m }).getLsbD k = (statusWord b).getLsbD k := by
  simp [statusWord_getLsbD, h]

/-- The result group shows in the four lowest bits of STATUS only. -/
theorem statusWord_results_getLsbD_of_le {k : Nat} (h : 4 ≤ k) (b : Block) (r : Results) :
    (statusWord { b with results := r }).getLsbD k = (statusWord b).getLsbD k := by
  simp [statusWord_getLsbD, show k ≠ 0 by omega, show k ≠ 1 by omega, show k ≠ 2 by omega, show k ≠ 3 by omega]

/-! ## The invariant of the error fields (10_state.md R29) -/

theorem causeCode_ne_zero (c : Cause) : causeCode c ≠ 0 := by cases c <;> decide

theorem causeCode_le (c : Cause) : (causeCode c).toNat ≤ 3 := by cases c <;> decide

theorem Block.errorConsistent_clear (b : Block) : Block.ErrorConsistent { b with err := false, ecode := 0 } :=
  ⟨by simp, by simp⟩

/-- An illegal command leaves a code in its range: its own, or the one recorded before (60_exceptions.md R161). -/
theorem Block.ErrorConsistent.illegal {b : Block} (h : b.ErrorConsistent) (c : Cause) :
    Block.ErrorConsistent { b with err := true, ecode := ecodeAfterIllegal b.err b.ecode c } := by
  obtain ⟨hiff, hle⟩ := h
  have hcode : ecodeAfterIllegal b.err b.ecode c ≠ 0 ∧ (ecodeAfterIllegal b.err b.ecode c).toNat ≤ 3 := by
    cases he : b.err with
    | false => exact ⟨causeCode_ne_zero c, causeCode_le c⟩
    | true => exact ⟨fun h0 => Bool.noConfusion (he.symm.trans (hiff.2 h0)), hle⟩
  obtain ⟨hne, hle'⟩ := hcode
  exact ⟨⟨nofun, fun h0 => absurd h0 hne⟩, hle'⟩

/-! ## The invariant of the result group (10_state.md R34) -/

/-- The denominator that a conversion writes is one of the three of 41_convert.md R124. -/
theorem writeConv_den_mem (q : Quantity) (fam : Family) (raw : Raw) (sl : Slot) :
    (writeConv q fam raw sl).den.toNat ∈ [6553600, 65536, 65535] := by
  rcases conv_den q fam raw with h | h | h <;> simp [h]

theorem Slot.unfilled_empty_crc (k : Byte) : Slot.Unfilled { Slot.empty with crc := k } := ⟨rfl, rfl, rfl, rfl⟩

/-- Without a reading: nothing is valid and both slots are unfilled. -/
theorem Results.consistent_of_unfilled {sl0 sl1 : Slot} (h0 : sl0.Unfilled) (h1 : sl1.Unfilled) :
    Results.Consistent ⟨false, false, false, false, sl0, sl1⟩ where
  unfilled0 _ := h0
  unfilled1 _ := h1
  rawCode := nofun
  den0 hd := absurd h0.den hd
  den1 hd := absurd h1.den hd
  second := nofun
  heaterBit := nofun
  heater := nofun

/-- A raw code alone in slot 0, with or without the heater bit (42_frame.md R142, R146). -/
theorem Results.consistent_of_raw {sl0 sl1 : Slot} {hv htr : Bool} (hraw : sl0.raw.toNat < 0x10000) (hden : sl0.den = 0)
    (h1 : sl1.Unfilled) (hheater : htr = true → hv = true) : Results.Consistent ⟨true, false, hv, htr, sl0, sl1⟩ where
  unfilled0 := nofun
  unfilled1 _ := h1
  rawCode _ := hraw
  den0 hd := absurd hden hd
  den1 hd := absurd h1.den hd
  second := nofun
  heaterBit := hheater
  heater _ := ⟨rfl, hden⟩

/-- A conversion in slot 0, and slot 1 either unfilled or with a conversion of its own (41_convert.md R128). -/
theorem Results.consistent_of_conv {sl1 : Slot} {v1 : Bool} (q : Quantity) (fam : Family) (raw : Raw) (sl : Slot)
    (hunfilled : v1 = false → sl1.Unfilled) (hfilled : v1 = true → sl1.den.toNat ∈ [6553600, 65536, 65535]) :
    Results.Consistent ⟨true, v1, false, false, writeConv q fam raw sl, sl1⟩ where
  unfilled0 := nofun
  unfilled1 := hunfilled
  rawCode _ := zextRaw_lt raw
  den0 _ := ⟨rfl, writeConv_den_mem q fam raw sl⟩
  den1 hd := by
    have hv1 : v1 = true := by
      by_contra hn
      exact hd (hunfilled (eq_false_of_ne_true hn)).den
    exact ⟨hv1, hfilled hv1⟩
  second _ := rfl
  heaterBit := nofun
  heater := nofun

theorem Results.consistent_empty : Results.empty.Consistent :=
  consistent_of_unfilled (Slot.unfilled_empty_crc 0) (Slot.unfilled_empty_crc 0)

/-- A one-frame command leaves a consistent group if what it writes for a valid frame is consistent (42_frame.md R141). -/
theorem frameResults_consistent (fam : Family) (d0 d1 c : Byte) {accept : Results → Results}
    (h : ∀ k, (accept { Results.empty with slot0 := { Slot.empty with crc := k } }).Consistent) :
    (frameResults fam d0 d1 c accept).Consistent := by
  rw [frameResults_eq]
  split
  · exact h _
  · exact Results.consistent_of_unfilled (Slot.unfilled_empty_crc _) (Slot.unfilled_empty_crc 0)

theorem acceptRaw_consistent (raw : Raw) (k : Byte) :
    (acceptRaw raw { Results.empty with slot0 := { Slot.empty with crc := k } }).Consistent :=
  Results.consistent_of_raw (zextRaw_lt raw) rfl (Slot.unfilled_empty_crc 0) nofun

theorem acceptConv_consistent (q : Quantity) (fam : Family) (raw : Raw) (k : Byte) :
    (acceptConv q fam raw { Results.empty with slot0 := { Slot.empty with crc := k } }).Consistent :=
  Results.consistent_of_conv q fam raw _ (fun _ => Slot.unfilled_empty_crc 0) nofun

theorem acceptHeater_consistent (w : Raw) (k : Byte) :
    (acceptHeater w { Results.empty with slot0 := { Slot.empty with crc := k } }).Consistent :=
  Results.consistent_of_raw (zextRaw_lt w) rfl (Slot.unfilled_empty_crc 0) fun _ => rfl

theorem rawResults_consistent (q : Quantity) (fam : Family) (raw : Raw) : (rawResults q fam raw).Consistent :=
  Results.consistent_of_conv q fam raw _ (fun _ => Slot.unfilled_empty_crc 0) nofun

theorem combinedResults_consistent (arg : BitVec 24) (h0 h1 hc : Byte) : (combinedResults arg h0 h1 hc).Consistent := by
  rw [combinedResults_eq]
  split
  · exact Results.consistent_of_conv _ _ _ _ nofun fun _ => writeConv_den_mem _ _ _ _
  · exact Results.consistent_of_unfilled (Slot.unfilled_empty_crc _) (Slot.unfilled_empty_crc _)

/-- Every command leaves a consistent result group: one of its own, or the one it found. -/
theorem resultGroup_consistent {r : Results} (h : r.Consistent) (i : Instr) (arg : BitVec 24) :
    (resultGroup i arg r).Consistent := by
  cases i with
  | crcinit | crcbyte | crcpair | crccmp => exact h
  | chk3 => exact frameResults_consistent _ _ _ _ (acceptRaw_consistent _)
  | convt | convh => exact frameResults_consistent _ _ _ _ (acceptConv_consistent _ _ _)
  | convth => exact combinedResults_consistent _ _ _ _
  | htrstat => exact frameResults_consistent _ _ _ _ (acceptHeater_consistent _)
  | rawt | rawh => exact rawResults_consistent _ _ _

/-- No access breaks the invariants: a command keeps the error fields and leaves a consistent result group, an illegal command
and a STATUS write touch the error fields alone. -/
theorem AccessEffect.keeps_consistent {s : State} {a : Access} {b : Block} (he : AccessEffect s a b) (h : s.Consistent) :
    b.ErrorConsistent ∧ b.results.Consistent := by
  obtain ⟨herr, hres⟩ := h
  cases he with
  | unchanged => exact ⟨herr, hres⟩
  | command => exact ⟨⟨herr.noError, herr.code⟩, resultGroup_consistent hres _ _⟩
  | illegal => exact ⟨herr.illegal _, hres⟩
  | argWrite => exact ⟨⟨herr.noError, herr.code⟩, hres⟩
  | errorClear => exact ⟨Block.errorConsistent_clear _, hres⟩

/-! ## Reset -/

theorem Block.reset_errorConsistent : Block.reset.ErrorConsistent := Block.errorConsistent_clear .reset

/-- A slot without a value has nothing to explain. -/
theorem Slot.explained_of_den_zero {sl : Slot} (h : sl.den = 0) : sl.Explained := fun hd => absurd h hd

/-- A state with the block at reset meets every invariant. -/
theorem State.invariants_of_block_reset {s : State} (h : s.block = .reset) : s.Consistent ∧ s.Explained := by
  refine ⟨⟨?_, ?_⟩, ?_, ?_⟩ <;> rw [h]
  · exact Block.reset_errorConsistent
  · exact Results.consistent_empty
  · exact Slot.explained_of_den_zero rfl
  · exact Slot.explained_of_den_zero rfl

/-- The reset column of 10_state.md R22 lists what the registers of the block at reset read as. -/
theorem resetTable_row {p : Nat × Word} (h : p ∈ resetTable) : ∃ r : Reg, p = (r.offset, readReg .reset r) := by
  have hall : ∀ p ∈ resetTable, (Reg.ofOffset p.1).map (fun r => (r.offset, readReg .reset r)) = some p := by decide
  obtain ⟨r, -, hp⟩ := Option.map_eq_some_iff.1 (hall p h)
  exact ⟨r, hp.symm⟩

/-! ## ARG -/

/-- The reserved bits of ARG are ignored on a write and read as 0 (10_state.md R24). -/
theorem zextArg_argOfWord_toNat (v : Word) : (zextArg (argOfWord v)).toNat = v.toNat % 2 ^ 24 := by
  simp only [zextArg, argOfWord, BitVec.toNat_setWidth, BitVec.extractLsb'_toNat, Nat.shiftRight_zero]
  omega

end Sys2Proof.Machine

namespace Sys2Proof.Proofs
open Sys2Proof.Machine Sys2Proof.Spec

/-- Settles O57: each effect that serving an access can have keeps both invariants. -/
theorem everyStepKeepsTheStateConsistent : Obligations.EveryStepKeepsTheStateConsistent := by
  intro s t hs h
  obtain ⟨a, rest, -, hp, -⟩ := step_cases h
  obtain ⟨herr, hres⟩ := (step_accessEffect hp h).keeps_consistent hs
  exact ⟨herr, hres⟩

/-- Settles O51: by the effect of the served access; a command's flags by the laws of `resultGroup` and `matchAfter`. -/
theorem flagsHaveOnlyTheirWriters : Obligations.FlagsHaveOnlyTheirWriters := by
  intro s t a rest hp h
  have heffect := step_accessEffect hp h
  generalize t.block = b at heffect
  cases heffect with
  | unchanged => simp
  | @command w i hd =>
    refine ⟨fun hne => ⟨w, i, rfl, hd, ?_⟩, fun hne => ?_, fun hne => absurd ⟨rfl, rfl⟩ hne⟩
    · by_contra hn
      simp [blockAfter, resultGroup_of_not_result (eq_false_of_ne_true hn)] at hne
    · obtain ⟨c, rfl⟩ := crccmp_of_matchAfter_ne hne
      exact ⟨w, c, rfl, hd⟩
  | @illegal w c hd => exact ⟨by simp, by simp, fun _ => .inl ⟨w, c, rfl, hd⟩⟩
  | argWrite => simp
  | @errorClear v hv => exact ⟨by simp, by simp, fun _ => .inr ⟨v, rfl, hv⟩⟩

/-- Settles O52: the writers by the effect of the served access; the frame commands are result commands, which write the
result group alone and compute it without ACC. -/
theorem accHasOnlyItsWritersAndReaders : Obligations.AccHasOnlyItsWritersAndReaders := by
  constructor
  · intro s t a rest hp h hne
    have heffect := step_accessEffect hp h
    generalize t.block = b at heffect hne
    cases heffect with
    | @command w i hd => exact ⟨w, i, rfl, hd, acc_writer_of_accAfter_ne hne⟩
    | unchanged | illegal | argWrite | errorClear => exact absurd rfl hne
  · intro f d0 d1 c s x i hi
    have hresult : i.isResult = true := by
      simp only [List.mem_cons, List.not_mem_nil, or_false] at hi
      rcases hi with rfl | rfl | rfl | rfl | rfl <;> rfl
    refine ⟨_, exec_eq_blockAfter i s, ?_, ?_⟩
    · exact accAfter_of_result hresult _
    · rw [exec_eq_blockAfter, blockAfter_of_result hresult, blockAfter_of_result hresult]

/-- Settles O53: the fields by the ARG write, the frame by `blockAfter`; two values of ARG, one with a valid frame, tell that
CONVTH reads it. -/
theorem argHasOnlyItsWritersAndReaders : Obligations.ArgHasOnlyItsWritersAndReaders := by
  refine ⟨fun s v hr => ⟨_, step_issue_writeAt hr .arg v, ?_, ?_, ?_, zextArg_argOfWord_toNat v⟩,
    fun i s => ⟨_, exec_eq_blockAfter i s, rfl⟩, fun i s x hi => ⟨_, exec_eq_blockAfter i s, ?_⟩, ?_⟩
  · simp [argByte0, argOfWord]
  · simp [argByte1, argOfWord]
  · simp [argByte2, argOfWord]
  · rw [exec_eq_blockAfter]
    simp [blockAfter, resultGroup_of_not_convth hi x s.block.arg]
  · exact ⟨0x62, 0x2B, 0x61, .reset, _, _, 0x622B61, rfl, rfl, fun h => absurd (congrArg Results.v0 h) (by decide +kernel)⟩

/-- Settles O55: each group of commands writes one field of the block, and that field shows in the named registers only. -/
theorem commandsLeaveOtherRegistersAlone : Obligations.CommandsLeaveOtherRegistersAlone := by
  intro i s t h
  obtain rfl := Host.Outcome.next.inj ((exec_eq_blockAfter i s).symm.trans h)
  refine ⟨⟨rfl, rfl, rfl, rfl⟩, fun hacc r hne => ?_, ?_, fun hresult => ?_⟩
  · rw [blockAfter_of_acc_writer hacc]
    exact readReg_acc_of_ne hne _ _
  · rintro ⟨c, rfl⟩
    rw [blockAfter_crccmp]
    exact ⟨fun r hne => readReg_matchFlag_of_ne hne _ _, fun k hk => statusWord_matchFlag_getLsbD_of_ne hk _ _⟩
  · rw [blockAfter_of_result hresult]
    exact ⟨by simp [readReg], fun k hk => statusWord_results_getLsbD_of_le hk _ _⟩

/-- Settles O8: a read returns its register, and the table lists what the registers read as at reset. -/
theorem registersReadTheirResetValues : Obligations.RegistersReadTheirResetValues := by
  intro n p hp
  obtain ⟨r, rfl⟩ := resetTable_row hp
  exact step_issue_readAt rfl r

/-- Settles O9: in both kinds of state the block is at reset. -/
theorem resetIsConsistent : Obligations.ResetIsConsistent :=
  ⟨fun _ => State.invariants_of_block_reset rfl, fun _ => State.invariants_of_block_reset rfl⟩

/-- Settles O16: ID has no field in the block, so it reads its constant and a write to it has no effect. -/
theorem identityIsConstant : Obligations.IdentityIsConstant := by
  intro s v hr
  refine ⟨step_issue_readAt hr .id, step_issue_writeAt hr .id v, ?_, ?_⟩ <;> simp only [readReg] <;> decide

end Sys2Proof.Proofs
end

section
/-!
SUPPORT and PROOFS for 20_memory.md: which accesses are legal, what a read returns and a write does at each offset, what
doing an access twice leaves, the window as a parameter, the byte and bit order of the checksum, and the statements O13, O14,
O15, O19, O20 and O23.
-/
namespace Sys2Proof.Machine
open Sys2Proof.Spec

/-! ## Legal accesses and offsets -/

/-- The host's next access is `a`: the step performs it in the state before it was issued. -/
theorem step_issue {s : State} (hr : s.resetLine = false) (a : Access) : step (issue a s) = performAccess a s :=
  step_of_pending (s := issue a s) rfl hr

/-- A legal access reaches the register at offset a - BASE (20_memory.md R51). -/
theorem Access.target_offset_of_legal {base : Nat} {a : Access} (h : a.legal base = true) :
    ∃ r, a.target base = some r ∧ r.offset = a.addr - base := by
  obtain ⟨r, ht⟩ := target_of_legal h
  obtain ⟨-, haddr⟩ := width_addr_of_target ht
  exact ⟨r, ht, by omega⟩

/-- Every aligned offset in the window is a register's (20_memory.md R60). -/
theorem Reg.exists_offset_eq {n : Nat} (h : n < 64) (h4 : n % 4 = 0) : ∃ r : Reg, r.offset = n := by
  obtain ⟨r, hr⟩ := Option.isSome_iff_exists.1 (ofOffset_isSome h h4)
  exact ⟨r, (offset_of_ofOffset hr).symm⟩

/-! ## What a read returns -/

theorem flagWord_toNat (f : Bool) : (flagWord f).toNat = bit f := by cases f <;> rfl

theorem bit_le_one (f : Bool) : bit f ≤ 1 := by cases f <;> decide

/-- A field put above the `n` low bits of a word that has no others is added at its place. -/
theorem toNat_or_shiftLeft {x y : Word} {n : Nat} (hx : x.toNat < 2 ^ n) (hy : 2 ^ n * y.toNat < 2 ^ 32) :
    (x ||| y <<< n).toNat = x.toNat + 2 ^ n * y.toNat := by
  rw [BitVec.toNat_or, BitVec.toNat_shiftLeft, Nat.shiftLeft_eq, Nat.mul_comm y.toNat, Nat.mod_eq_of_lt hy, Nat.or_comm,
    ← Nat.two_pow_add_eq_or_of_lt hx, Nat.add_comm]

/-- The same for a flag, which is one bit. -/
theorem toNat_or_flagWord {x : Word} {n : Nat} (hn : n < 32) (hx : x.toNat < 2 ^ n) (f : Bool) :
    (x ||| flagWord f <<< n).toNat = x.toNat + 2 ^ n * bit f ∧ (x ||| flagWord f <<< n).toNat < 2 ^ (n + 1) := by
  have hf := bit_le_one f
  have hle : 2 ^ n * bit f ≤ 2 ^ n := by simpa using Nat.mul_le_mul_left (2 ^ n) hf
  have hlt : 2 ^ n < 2 ^ 32 := Nat.pow_lt_pow_right (by decide) hn
  have hsum := toNat_or_shiftLeft (y := flagWord f) hx (by rw [flagWord_toNat]; omega)
  rw [flagWord_toNat] at hsum
  exact ⟨hsum, by omega⟩

/-- STATUS is the sum of its fields at their places (10_state.md R25, 20_memory.md R52). -/
theorem statusWord_toNat (b : Block) : (statusWord b).toNat = bit b.results.v0 + 2 * bit b.results.v1
    + 4 * bit b.results.hv + 8 * bit b.results.htr + 16 * bit b.matchFlag + 128 * bit b.err + 256 * b.ecode.toNat := by
  have h0 : (flagWord b.results.v0).toNat = bit b.results.v0 := flagWord_toNat _
  have hle := bit_le_one b.results.v0
  obtain ⟨h1, hlt1⟩ := toNat_or_flagWord (x := flagWord b.results.v0) (n := 1) (by decide) (by omega) b.results.v1
  obtain ⟨h2, hlt2⟩ := toNat_or_flagWord (n := 2) (by decide) hlt1 b.results.hv
  obtain ⟨h3, hlt3⟩ := toNat_or_flagWord (n := 3) (by decide) hlt2 b.results.htr
  obtain ⟨h4, hlt4⟩ := toNat_or_flagWord (n := 4) (by decide) hlt3 b.matchFlag
  obtain ⟨h7, hlt7⟩ := toNat_or_flagWord (n := 7) (by decide) (hlt4.trans (by decide)) b.err
  have hecode : (b.ecode.setWidth 32).toNat = b.ecode.toNat := BitVec.toNat_setWidth_of_le (by decide)
  have h8 := toNat_or_shiftLeft (n := 8) (y := b.ecode.setWidth 32) hlt7 (by omega)
  rw [statusWord]
  omega

/-- The register map as a list, in the order of its offsets (10_state.md R22). -/
def Reg.all : List Reg :=
  [.cmd, .arg, .status, .acc, .crc0, .raw0, .num0, .den0, .fx0, .crc1, .raw1, .num1, .den1, .fx1, .id, .rsvd]

/-- The table of 20_memory.md R52 lists, at each register's offset, what the register reads as. -/
theorem readTable_eq_map (b : Block) : readTable b = Reg.all.map fun r => (r.offset, readReg b r) := by
  simp [readTable, Reg.all, Reg.offset, readReg, ← statusWord_toNat, zextArg, zextByte, idWord]

/-! ## What a write does -/

theorem causeCode_eq_code (c : Cause) : causeCode c = code c := by cases c <;> rfl

/-- The illegal-command outcome as 60_exceptions.md R161 writes it. -/
theorem takeIllegal_eq_afterIllegal (c : Cause) (s : State) : takeIllegal c s = afterIllegal (code c) s := by
  cases h : s.block.err <;>
    simp [takeIllegal, afterIllegal, State.setError, ecodeAfterIllegal, causeCode_eq_code, h]

/-- A write to any other register than CMD, ARG and STATUS has no effect (20_memory.md R54). -/
theorem writeReg_of_read_only {r : Reg} (hr : r ∉ [Reg.cmd, .arg, .status]) (v : Word) (s : State) :
    writeReg r v s = .next s := by
  cases r with
  | cmd | arg | status => simp at hr
  | _ => rfl

/-! ## Accesses done twice -/

theorem steps_two {s t u : State} (ht : step s = .next t) (hu : step t = .next u) : steps 2 s = .next u := by
  simp [steps, ht, hu]

/-- A read done twice returns the same word twice and changes nothing but the replies (20_memory.md R59). -/
theorem steps_two_issue_readAt {s : State} (hr : s.resetLine = false) (r : Reg) :
    steps 2 (issue (readAt s r.offset) (issue (readAt s r.offset) s))
      = .next { s with replies := s.replies ++ [readReg s.block r, readReg s.block r] } := by
  have h1 := step_issue_readAt (s := issue (readAt s r.offset) s) hr r
  have h2 := step_issue_readAt (s := { s with replies := s.replies ++ [readReg s.block r] }) hr r
  rw [List.append_assoc] at h2
  exact steps_two h1 h2

/-- A write done twice has its register's effect twice. -/
theorem steps_two_issue_writeAt {s t u : State} (hr : s.resetLine = false) {r : Reg} {v : Word}
    (ht : writeReg r v s = .next t) (hu : writeReg r v t = .next u) :
    steps 2 (issue (writeAt s r.offset v) (issue (writeAt s r.offset v) s)) = .next u := by
  obtain ⟨f, hf⟩ := writeReg_changes_block_only r v
  obtain rfl := Host.Outcome.next.inj ((hf s).symm.trans ht)
  have h1 := (step_issue_writeAt (s := issue (writeAt s r.offset v) s) hr r v).trans (hf _)
  have h2 := step_issue_writeAt (s := { s with block := f s.block }) hr r v
  exact steps_two h1 (h2.trans hu)

/-- The effect of a write to ARG or STATUS, had once, is not changed by having it again (20_memory.md R59). -/
theorem writeReg_idempotent {r : Reg} (hr : r ∈ [Reg.arg, .status]) (v : Word) (s : State) :
    ∃ t, writeReg r v s = .next t ∧ writeReg r v t = .next t := by
  simp only [List.mem_cons, List.not_mem_nil, or_false] at hr
  rcases hr with rfl | rfl
  · exact ⟨_, rfl, rfl⟩
  · cases hv : clearsError v with
    | true => exact ⟨clearError s, by simp [writeReg, hv], by simp [writeReg, hv, clearError, State.setError]⟩
    | false => exact ⟨s, by simp [writeReg, hv], by simp [writeReg, hv]⟩

/-! ## The window as a parameter -/

theorem moveWindow_base (k : Nat) (s : State) : (moveWindow k s).base = s.base + 64 * k := Nat.mul_add 64 s.window k

theorem moveAccess_addr (k : Nat) (a : Access) : (moveAccess k a).addr = a.addr + 64 * k := by cases a <;> rfl

theorem moveAccess_width (k : Nat) (a : Access) : (moveAccess k a).width = a.width := by cases a <;> rfl

/-- Moving the window with the access leaves its offset, so it reaches the same register (20_memory.md R51). -/
theorem moveAccess_target (k base : Nat) (a : Access) : (moveAccess k a).target (base + 64 * k) = a.target base := by
  simp [Access.target, Access.legal, moveAccess_addr, moveAccess_width, Nat.add_right_comm base, Nat.add_sub_add_right]

/-- What a step answers, with the window and the accesses moved up by `k` windows. -/
def moveOutcome (k : Nat) : Host.Outcome State Fault Refusal → Host.Outcome State Fault Refusal
  | .next t => .next (moveWindow k t)
  | .fault (.busError a) => .fault (.busError (a + 64 * k))
  | .refused r => .refused r

theorem performAccess_moveWindow (k : Nat) (a : Access) (s : State) :
    performAccess (moveAccess k a) (moveWindow k s) = moveOutcome k (performAccess a s) := by
  have hmove : (moveAccess k a).target (moveWindow k s).base = a.target s.base := by
    rw [moveWindow_base, moveAccess_target]
  cases ht : a.target s.base with
  | none => rw [performAccess_of_no_target ht, performAccess_of_no_target (hmove.trans ht), moveAccess_addr, moveOutcome]
  | some r =>
    cases a with
    | read w d =>
      rw [performAccess_read_of_target ht]
      exact performAccess_read_of_target (hmove.trans ht)
    | write w d v =>
      obtain ⟨f, hf⟩ := writeReg_changes_block_only r v
      rw [performAccess_write_of_target ht, hf]
      exact (performAccess_write_of_target (hmove.trans ht)).trans (hf _)

/-- Moving the window with the accesses and stepping commute (20_memory.md R60). -/
theorem step_moveWindow (k : Nat) (s : State) : step (moveWindow k s) = moveOutcome k (step s) := by
  cases hp : s.pending with
  | nil => rw [step_of_no_pending hp, step_of_no_pending (by simp [moveWindow, hp]), moveOutcome]
  | cons a rest =>
    have hmove : (moveWindow k s).pending = moveAccess k a :: rest.map (moveAccess k) := by simp [moveWindow, hp]
    cases hr : s.resetLine with
    | true => rw [step_of_reset_asserted hp hr, step_of_reset_asserted hmove hr, moveOutcome]
    | false =>
      rw [step_of_pending hp hr, step_of_pending hmove hr]
      exact performAccess_moveWindow k a (s.withPending rest)

/-! ## The order of the checksum's bytes and bits -/

theorem iterate_eq_iterate {α : Type} (f : α → α) (n : Nat) (x : α) : iterate f n x = f^[n] x := by
  induction n generalizing x with
  | zero => rfl
  | succ n ih => exact ih (f x)

/-- One iteration on 8 bits: 0x31 is XORed into the shifted value when bit 7 was set (40_crc.md R101). -/
theorem crcShift_eq (x : Byte) : crcShift x = if x.getLsbD 7 then (x <<< 1) ^^^ 0x31 else x <<< 1 := by
  simp only [crcShift]
  split <;> simp [BitVec.setWidth_xor]

/-- One iteration takes the top bit of `b` into the register `r` and brings the next bit of `b` to the top. -/
theorem crcShift_xor_eq_serialBit (r b : Byte) : crcShift (r ^^^ b) = serialBit r (b.getLsbD 7) ^^^ b <<< 1 := by
  rw [crcShift_eq, serialBit, BitVec.getLsbD_xor, BitVec.shiftLeft_xor_distrib]
  cases r.getLsbD 7 <;> cases b.getLsbD 7 <;> simp <;> ac_rfl

/-- After `n` iterations the register has been fed the `n` top bits of `b`, and the others stand above `n` zeros. -/
theorem crcShift_iterate_xor_eq_foldl {n : Nat} (hn : n ≤ 8) (r b : Byte) :
    crcShift^[n] (r ^^^ b) = ((List.range n).map fun i => b.getLsbD (7 - i)).foldl serialBit r ^^^ b <<< n := by
  induction n with
  | zero => simp
  | succ n ih =>
    have htop : (b <<< n).getLsbD 7 = b.getLsbD (7 - n) := by
      rw [BitVec.getLsbD_shiftLeft, decide_eq_false (show ¬7 < n by omega)]
      simp
    rw [Function.iterate_succ_apply', ih (by omega), crcShift_xor_eq_serialBit, htop, List.range_succ, List.map_append,
      List.foldl_append, BitVec.shiftLeft_add]
    rfl

/-- A byte step feeds the byte's bits, most significant first (20_memory.md R56). -/
theorem crc8Step_eq_foldl (acc b : Byte) : crc8Step acc b = (msbFirst b).foldl serialBit acc := by
  rw [crc8Step_eq, iterate_eq_iterate, crcShift_iterate_xor_eq_foldl (Nat.le_refl 8), BitVec.shiftLeft_eq_zero (Nat.le_refl 8),
    BitVec.xor_zero, msbFirst]

end Sys2Proof.Machine

namespace Sys2Proof.Proofs
open Sys2Proof.Machine Sys2Proof.Spec

/-- Settles O13: a legal access has a target, the register at its offset; any other has none. -/
theorem accessCompletesExactlyIfLegal : Obligations.AccessCompletesExactlyIfLegal := by
  intro s a hr isLegal
  have hlegal : a.legal s.base = true ↔ isLegal := Access.legal_iff s.base a
  rw [step_issue hr]
  refine ⟨fun h => performAccess_of_legal (hlegal.2 h), fun h w d ha => ?_, fun h w d v ha => ?_, fun h => ?_⟩
  · obtain ⟨r, ht, hoff⟩ := Access.target_offset_of_legal (hlegal.2 h)
    subst ha
    exact ⟨r, hoff, performAccess_read_of_target ht⟩
  · obtain ⟨r, ht, hoff⟩ := Access.target_offset_of_legal (hlegal.2 h)
    subst ha
    exact ⟨r, hoff, performAccess_write_of_target ht⟩
  · exact performAccess_of_no_target (Access.target_of_illegal (eq_false_of_ne_true (mt hlegal.1 h)))

/-- Settles O14: the rows of the table are the registers, and a read returns its register. -/
theorem readReturnsTheRegister : Obligations.ReadReturnsTheRegister := by
  intro s hr p hp
  rw [readTable_eq_map] at hp
  obtain ⟨r, -, rfl⟩ := List.mem_map.1 hp
  exact step_issue_readAt hr r

/-- Settles O15: a write has its register's effect, and thirteen registers are read-only. -/
theorem writeHasItsRegisterEffect : Obligations.WriteHasItsRegisterEffect := by
  intro s v hr
  refine ⟨(step_issue_writeAt hr .cmd v).trans ?_, step_issue_writeAt hr .arg v, step_issue_writeAt hr .status v,
    fun off hoff => ?_⟩
  · rcases execute_cases v s with ⟨i, hd, he⟩ | ⟨c, hd, he⟩
    · rw [hd]
      exact he
    · simp only [hd, ← takeIllegal_eq_afterIllegal]
      exact he
  · have hreadOnly : ∀ off ∈ [0x0C, 0x10, 0x14, 0x18, 0x1C, 0x20, 0x24, 0x28, 0x2C, 0x30, 0x34, 0x38, 0x3C],
        ∃ r ∈ Reg.all, r ∉ [Reg.cmd, .arg, .status] ∧ r.offset = off := by decide
    obtain ⟨r, -, hr', rfl⟩ := hreadOnly off hoff
    exact (step_issue_writeAt hr r v).trans (writeReg_of_read_only hr' v s)

/-- Settles O19: the two idempotent kinds by the laws above; CRCBYTE of 0x01 from reset leaves 0x31 in ACC, and done again
another value. -/
theorem readsAndPlainWritesAreIdempotent : Obligations.ReadsAndPlainWritesAreIdempotent := by
  refine ⟨fun s off hr hlt h4 => ?_, fun s v hr off hoff => ?_, ?_⟩
  · obtain ⟨r, rfl⟩ := Reg.exists_offset_eq hlt h4
    exact ⟨readReg s.block r, step_issue_readAt hr r, steps_two_issue_readAt hr r⟩
  · have hplain : ∀ off ∈ [0x04, 0x08], ∃ r ∈ [Reg.arg, .status], r.offset = off := by decide
    obtain ⟨r, hmem, rfl⟩ := hplain off hoff
    obtain ⟨t, ht, htt⟩ := writeReg_idempotent hmem v s
    exact ⟨t, (step_issue_writeAt hr r v).trans ht, steps_two_issue_writeAt hr ht htt⟩
  · have hdecode : decode 0x20000001 = .command (.crcbyte 0x01) := by decide
    have hwrite : ∀ s : State, writeReg .cmd 0x20000001 s = .next (s.setAcc (crc8Step s.block.acc 0x01)) := fun s => by
      simp only [writeReg, execute, hdecode, exec, execCrcbyte]
    have hacc : crc8Step 0x00 0x01 ≠ crc8Step (crc8Step 0x00 0x01) 0x01 := by decide
    exact ⟨.reset, 0x20000001, _, _, (step_issue_writeAt rfl .cmd _).trans (hwrite _),
      steps_two_issue_writeAt rfl (hwrite _) (hwrite _), hacc⟩

/-- Settles O20: moving the window commutes with the step, whatever the step answers. -/
theorem stepDoesNotDependOnTheWindow : Obligations.StepDoesNotDependOnTheWindow :=
  fun s k => ⟨fun _ h => by rw [step_moveWindow, h, moveOutcome], fun _ h => by rw [step_moveWindow, h, moveOutcome]⟩

/-- Settles O23: each of the two byte steps feeds its byte to the register, the first byte first. -/
theorem checksumTakesBytesInFrameOrderMsbFirst : Obligations.ChecksumTakesBytesInFrameOrderMsbFirst := by
  intro s d0 d1
  rw [crc8Pair, crc8Step_eq_foldl, crc8Step_eq_foldl, List.foldl_append]

end Sys2Proof.Proofs
end

section
/-!
SUPPORT and PROOFS for 30_encoding.md: the decoder by the three checks of WellFormed.lean, what it answers for well-formed
fields, the rows of the opcode table field by field, a command's word as a number, what commands run one after another leave,
and the statements O2, O3, O4, O5, O6, O10 and O56.
-/
namespace Sys2Proof

/-! ## The decoder and the checks -/

/-- Reserved opcodes as the decoder tests them (30_encoding.md R76). -/
theorem CommandFields.opcodeDefined_eq_false_iff (f : CommandFields) :
    f.opcodeDefined = false ↔ f.op = 0x0 ∨ 0xC ≤ f.op := by
  have h : ∀ op : BitVec 4, (1 ≤ op.toNat && op.toNat ≤ 11) = false ↔ op = 0x0 ∨ 0xC ≤ op := by decide
  exact h f.op

/-- Must-be-zero fields as the decoder tests them (30_encoding.md R75). -/
theorem CommandFields.reservedZero_eq_false_iff (f : CommandFields) :
    f.reservedZero = false ↔ f.rsv ≠ 0 ∨ (f.op = 0x1 ∧ (f.b0 ≠ 0 ∨ f.b1 ≠ 0 ∨ f.b2 ≠ 0)) ∨
      ((f.op = 0x2 ∨ f.op = 0x4) ∧ (f.fam ≠ 0 ∨ f.b0 ≠ 0 ∨ f.b1 ≠ 0)) ∨
      ((f.op = 0x3 ∨ f.op = 0xA ∨ f.op = 0xB) ∧ f.b2 ≠ 0) := by
  simp only [reservedZero, ← BitVec.toNat_inj, BitVec.reduceToNat, ne_eq, Bool.and_eq_false_iff, Bool.or_eq_false_iff,
    Bool.not_eq_false', Bool.or_eq_true, beq_iff_eq, bne_eq_false_iff_eq, beq_eq_false_iff_ne, or_assoc, and_assoc,
    ← not_and_or]

/-- Family B only, as the decoder tests it (30_encoding.md R76). -/
theorem CommandFields.familySupported_eq_false_iff (f : CommandFields) :
    f.familySupported = false ↔ (f.op = 0x8 ∨ f.op = 0x9) ∧ f.fam = 0 := by
  have h : ∀ fam : BitVec 1, (fam.toNat == 1) = false ↔ fam = 0 := by decide
  simp only [familySupported, Bool.or_eq_false_iff, Bool.not_eq_false', Bool.or_eq_true, beq_iff_eq, h,
    ← BitVec.toNat_inj (x := f.op), BitVec.reduceToNat]

/-- Decoding, by the three checks in their order of priority (30_encoding.md R77). -/
theorem decodeFields_eq (f : CommandFields) :
    decodeFields f =
      if f.opcodeDefined = false then .illegal .reservedOpcode
      else if f.reservedZero = false then .illegal .reservedField
      else if f.familySupported = false then .illegal .familyUnsupported
      else commandOf f := by
  simp only [decodeFields, f.opcodeDefined_eq_false_iff, f.reservedZero_eq_false_iff, f.familySupported_eq_false_iff,
    ite_or]

/-- The defined opcodes, one by one (30_encoding.md R74). -/
theorem CommandFields.op_of_opcodeDefined {f : CommandFields} (h : f.opcodeDefined = true) :
    f.op = 0x1 ∨ f.op = 0x2 ∨ f.op = 0x3 ∨ f.op = 0x4 ∨ f.op = 0x5 ∨ f.op = 0x6 ∨ f.op = 0x7 ∨ f.op = 0x8 ∨ f.op = 0x9 ∨
      f.op = 0xA ∨ f.op = 0xB := by
  have hop : ∀ op : BitVec 4, (1 ≤ op.toNat && op.toNat ≤ 11) = true →
      op = 0x1 ∨ op = 0x2 ∨ op = 0x3 ∨ op = 0x4 ∨ op = 0x5 ∨ op = 0x6 ∨ op = 0x7 ∨ op = 0x8 ∨ op = 0x9 ∨
        op = 0xA ∨ op = 0xB := by decide
  exact hop f.op h

/-- A command's fields select that command (30_encoding.md R74). -/
theorem commandOf_fields (i : Instr) : commandOf i.fields = .command i := by
  cases i <;> simp [commandOf, Instr.fields]

/-- Well-formed fields are those of some command: what that command does not use is zero (30_encoding.md R75). -/
theorem CommandFields.exists_eq_fields {f : CommandFields} (h : f.wellFormed = true) : ∃ i : Instr, f = i.fields := by
  simp only [wellFormed, Bool.and_eq_true] at h
  obtain ⟨⟨hop, hzero⟩, hfam⟩ := h
  obtain ⟨op, fam, rsv, b0, b1, b2⟩ := f
  rcases op_of_opcodeDefined hop with h | h | h | h | h | h | h | h | h | h | h
  all_goals
    simp only at h
    subst h
    simp [reservedZero, familySupported] at hzero hfam
  · exact ⟨.crcinit (.ofBit fam), by simp [Instr.fields, ← BitVec.toNat_inj, hzero]⟩
  · exact ⟨.crcbyte b2, by simp [Instr.fields, ← BitVec.toNat_inj, hzero]⟩
  · exact ⟨.crcpair (.ofBit fam) b0 b1, by simp [Instr.fields, ← BitVec.toNat_inj, hzero]⟩
  · exact ⟨.crccmp b2, by simp [Instr.fields, ← BitVec.toNat_inj, hzero]⟩
  · exact ⟨.chk3 (.ofBit fam) b0 b1 b2, by simp [Instr.fields, ← BitVec.toNat_inj, hzero]⟩
  · exact ⟨.convt (.ofBit fam) b0 b1 b2, by simp [Instr.fields, ← BitVec.toNat_inj, hzero]⟩
  · exact ⟨.convh (.ofBit fam) b0 b1 b2, by simp [Instr.fields, ← BitVec.toNat_inj, hzero]⟩
  · exact ⟨.convth b0 b1 b2, by simp [Instr.fields, ← BitVec.toNat_inj, hzero, hfam]⟩
  · exact ⟨.htrstat b0 b1 b2, by simp [Instr.fields, ← BitVec.toNat_inj, hzero, hfam]⟩
  · exact ⟨.rawt (.ofBit fam) b0 b1, by simp [Instr.fields, ← BitVec.toNat_inj, hzero]⟩
  · exact ⟨.rawh (.ofBit fam) b0 b1, by simp [Instr.fields, ← BitVec.toNat_inj, hzero]⟩

/-- Every command's fields are well formed (30_encoding.md R74 to R76). -/
theorem Instr.fields_wellFormed (i : Instr) : i.fields.wellFormed = true := by
  cases i with
  | crcinit fam => exact Laws.Encodable.crcinit fam
  | crcbyte b => exact Laws.Encodable.crcbyte b
  | crcpair fam d0 d1 => exact Laws.Encodable.crcpair fam d0 d1
  | crccmp c => exact Laws.Encodable.crccmp c
  | chk3 fam d0 d1 c => exact Laws.Encodable.chk3 fam d0 d1 c
  | convt fam d0 d1 c => exact Laws.Encodable.convt fam d0 d1 c
  | convh fam d0 d1 c => exact Laws.Encodable.convh fam d0 d1 c
  | convth h0 h1 hc => exact Laws.Encodable.convth h0 h1 hc
  | htrstat s0 s1 c => exact Laws.Encodable.htrstat s0 s1 c
  | rawt fam r0 r1 => exact Laws.Encodable.rawt fam r0 r1
  | rawh fam r0 r1 => exact Laws.Encodable.rawh fam r0 r1

/-! ## What the decoder answers -/

/-- The four answers of the decoder, each with the checks that lead to it (30_encoding.md R77). -/
theorem decodeFields_cases (f : CommandFields) :
    (f.opcodeDefined = false ∧ decodeFields f = .illegal .reservedOpcode) ∨
      (f.opcodeDefined = true ∧ f.reservedZero = false ∧ decodeFields f = .illegal .reservedField) ∨
      (f.opcodeDefined = true ∧ f.reservedZero = true ∧ f.familySupported = false ∧
        decodeFields f = .illegal .familyUnsupported) ∨
      (f.opcodeDefined = true ∧ f.reservedZero = true ∧ f.familySupported = true ∧
        ∃ i : Instr, f = i.fields ∧ decodeFields f = .command i) := by
  rw [decodeFields_eq]
  cases hop : f.opcodeDefined with
  | false => simp
  | true =>
    cases hzero : f.reservedZero with
    | false => simp
    | true =>
      cases hfam : f.familySupported with
      | false => simp
      | true =>
        obtain ⟨i, rfl⟩ := CommandFields.exists_eq_fields (f := f) (by simp [CommandFields.wellFormed, hop, hzero, hfam])
        simp [commandOf_fields]

/-- Fields decode to a command exactly if they are that command's fields. -/
theorem decodeFields_eq_command_iff {f : CommandFields} {i : Instr} : decodeFields f = .command i ↔ f = i.fields := by
  constructor
  · intro h
    rcases decodeFields_cases f with ⟨-, he⟩ | ⟨-, -, he⟩ | ⟨-, -, -, he⟩ | ⟨-, -, -, j, hj, he⟩
    · simp [he] at h
    · simp [he] at h
    · simp [he] at h
    · rwa [Decoded.command.inj (h.symm.trans he)]
  · rintro rfl
    have hwf := i.fields_wellFormed
    simp only [CommandFields.wellFormed, Bool.and_eq_true] at hwf
    obtain ⟨⟨hop, hzero⟩, hfam⟩ := hwf
    simp [decodeFields_eq, hop, hzero, hfam, commandOf_fields]

/-- Fields decode to some command exactly if they are well formed. -/
theorem exists_decodeFields_eq_command_iff (f : CommandFields) :
    (∃ i, decodeFields f = .command i) ↔ f.wellFormed = true := by
  simp only [decodeFields_eq_command_iff]
  exact ⟨by rintro ⟨i, rfl⟩; exact i.fields_wellFormed, CommandFields.exists_eq_fields⟩

/-- A word decodes to a command exactly if it is that command's word. -/
theorem decode_eq_command_iff {w : Word} {i : Instr} : decode w = .command i ↔ encode i = w := by
  rw [decode, decodeFields_eq_command_iff, encode]
  constructor
  · intro h
    rw [← h, CommandFields.toWord_ofWord]
  · rintro rfl
    exact CommandFields.ofWord_toWord _

/-! ## The rows of the opcode table, field by field -/

theorem CommandFields.ofWord_injective : Function.Injective ofWord :=
  Function.LeftInverse.injective toWord_ofWord

theorem CommandFields.ofWord_and (w m : Word) :
    ofWord (w &&& m) =
      ⟨(ofWord w).op &&& (ofWord m).op, (ofWord w).fam &&& (ofWord m).fam, (ofWord w).rsv &&& (ofWord m).rsv,
        (ofWord w).b0 &&& (ofWord m).b0, (ofWord w).b1 &&& (ofWord m).b1, (ofWord w).b2 &&& (ofWord m).b2⟩ := by
  simp [ofWord, BitVec.extractLsb'_and]

/-- A row fits exactly the words with well-formed fields and the opcode of its pattern (30_encoding.md R74 to R76). -/
theorem TableRow.and_mask_eq_pattern_iff {r : TableRow} (hr : r ∈ opcodeTable) (w : Word) :
    w &&& r.mask = r.pattern ↔ (CommandFields.ofWord w).wellFormed = true ∧
      (CommandFields.ofWord w).op = (CommandFields.ofWord r.pattern).op := by
  have h1 : ∀ x : BitVec 1, x &&& 1#1 = x := fun _ => BitVec.and_allOnes
  have h3 : ∀ x : BitVec 3, x &&& 7#3 = x := fun _ => BitVec.and_allOnes
  have h4 : ∀ x : BitVec 4, x &&& 15#4 = x := fun _ => BitVec.and_allOnes
  have h8 : ∀ x : BitVec 8, x &&& 255#8 = x := fun _ => BitVec.and_allOnes
  rw [← CommandFields.ofWord_injective.eq_iff, CommandFields.ofWord_and]
  generalize CommandFields.ofWord w = f
  obtain ⟨op, fam, rsv, b0, b1, b2⟩ := f
  simp only [opcodeTable, List.mem_cons, List.not_mem_nil, or_false] at hr
  rcases hr with rfl | rfl | rfl | rfl | rfl | rfl | rfl | rfl | rfl | rfl | rfl
  all_goals
    simp [CommandFields.ofWord, CommandFields.wellFormed, CommandFields.opcodeDefined, CommandFields.reservedZero,
      CommandFields.familySupported, h1, h3, h4, h8, ← BitVec.toNat_inj]
    omega

/-- Rows of one mnemonic are rows of one opcode (30_encoding.md R74). -/
theorem opcodeTable_mnemonic_eq_iff : ∀ q ∈ opcodeTable, ∀ r ∈ opcodeTable,
    (q.mnemonic = r.mnemonic ↔ (CommandFields.ofWord q.pattern).op = (CommandFields.ofWord r.pattern).op) := by
  decide

/-- Every command has a row, with its mnemonic and its opcode (30_encoding.md R74). -/
theorem Instr.exists_row (i : Instr) :
    ∃ q ∈ opcodeTable, q.mnemonic = i.mnemonic ∧ (CommandFields.ofWord q.pattern).op = i.fields.op := by
  cases i <;> simp only [Instr.mnemonic, Instr.fields] <;> decide

/-- A command belongs to the row of its opcode. -/
theorem Instr.mnemonic_eq_iff {r : TableRow} (hr : r ∈ opcodeTable) (i : Instr) :
    i.mnemonic = r.mnemonic ↔ i.fields.op = (CommandFields.ofWord r.pattern).op := by
  obtain ⟨q, hq, hmnemonic, hop⟩ := i.exists_row
  rw [← hmnemonic, ← hop, opcodeTable_mnemonic_eq_iff q hq r hr]

/-- A word decodes to a command of a row exactly if the row fits it. -/
theorem exists_decode_mnemonic_iff {r : TableRow} (hr : r ∈ opcodeTable) (w : Word) :
    (∃ i, decode w = .command i ∧ i.mnemonic = r.mnemonic) ↔ w &&& r.mask = r.pattern := by
  rw [TableRow.and_mask_eq_pattern_iff hr, ← exists_decodeFields_eq_command_iff, ← exists_and_right]
  refine exists_congr fun i => and_congr_right fun h => ?_
  rw [i.mnemonic_eq_iff hr, decodeFields_eq_command_iff.1 h]

/-! ## A command's word as a number -/

/-- Joining two bit strings puts the first above the second. -/
theorem toNat_append_eq_add {m n : Nat} (x : BitVec m) (y : BitVec n) : (x ++ y).toNat = x.toNat * 2 ^ n + y.toNat := by
  rw [BitVec.toNat_append, ← Nat.shiftLeft_add_eq_or_of_lt y.isLt, Nat.shiftLeft_eq]

/-- The word of some fields is the sum of the fields at their places (30_encoding.md R71). -/
theorem CommandFields.toWord_toNat (f : CommandFields) :
    f.toWord.toNat = f.op.toNat * 2 ^ 28 + f.fam.toNat * 2 ^ 27 + f.rsv.toNat * 2 ^ 24 + f.b0.toNat * 2 ^ 16
      + f.b1.toNat * 2 ^ 8 + f.b2.toNat := by
  simp only [toWord, toNat_append_eq_add]
  omega

theorem Instr.fields_op_toNat (i : Instr) : i.fields.op.toNat = Spec.opcode i := by cases i <;> rfl

theorem Instr.fields_rsv (i : Instr) : i.fields.rsv = 0 := by cases i <;> rfl

theorem Instr.fields_bytes (i : Instr) : (i.fields.b0, i.fields.b1, i.fields.b2) = Spec.bytes i := by cases i <;> rfl

theorem Family.bit_toNat (f : Family) : f.bit.toNat = Spec.famNat f := by cases f <;> rfl

theorem Instr.fields_fam_toNat (i : Instr) : i.fields.fam.toNat = Spec.famField i := by
  cases i with
  | crcbyte | crccmp | convth | htrstat => rfl
  | _ => exact Family.bit_toNat _

/-- The word of a command is the sum of its fields, RSV being zero (30_encoding.md R73). -/
theorem encode_toNat (i : Instr) :
    (encode i).toNat = Spec.opcode i * 2 ^ 28 + Spec.famField i * 2 ^ 27 + (Spec.bytes i).1.toNat * 2 ^ 16
      + (Spec.bytes i).2.1.toNat * 2 ^ 8 + (Spec.bytes i).2.2.toNat := by
  simp [encode, CommandFields.toWord_toNat, i.fields_op_toNat, i.fields_fam_toNat, i.fields_rsv, ← i.fields_bytes]

end Sys2Proof

namespace Sys2Proof.Machine
open Sys2Proof.Spec

/-! ## Commands run one after another, and the accesses of the pseudo-instructions -/

/-- Commands run one after another complete, and change the block alone. -/
theorem execAll_eq_foldl (is : List Instr) (s : State) :
    execAll is s = .next { s with block := is.foldl (fun b i => blockAfter i b) s.block } := by
  induction is generalizing s with
  | nil => rfl
  | cons i is ih => simp [execAll, exec_eq_blockAfter, ih]

theorem seed_eq_seedOf (f : Family) : seed f = seedOf f := by cases f <;> rfl

/-- A CMD write of a word that decodes to a command runs it (30_encoding.md R77). -/
theorem writeReg_cmd_of_decode {w : Word} {i : Instr} (h : decode w = .command i) (s : State) :
    writeReg .cmd w s = exec i s := by
  simp [writeReg, execute, h]

/-- The number t0*2^16 + t1*2^8 + tc, written to ARG, leaves the three bytes there (30_encoding.md R83). -/
theorem argOfWord_bytes (t0 t1 tc : Byte) :
    argOfWord (BitVec.ofNat 32 (t0.toNat * 2 ^ 16 + t1.toNat * 2 ^ 8 + tc.toNat)) = t0 ++ t1 ++ tc := by
  apply BitVec.eq_of_toNat_eq
  simp only [argOfWord, BitVec.extractLsb'_toNat, BitVec.toNat_ofNat, toNat_append_eq_add, Nat.shiftRight_zero]
  omega

/-- The bytes that CONVTH takes from ARG are those three, in their order (10_state.md R24). -/
theorem argBytes_append (t0 t1 tc : Byte) :
    argByte0 (t0 ++ t1 ++ tc) = t0 ∧ argByte1 (t0 ++ t1 ++ tc) = t1 ∧ argByte2 (t0 ++ t1 ++ tc) = tc := by
  refine ⟨?_, ?_, ?_⟩ <;> apply BitVec.eq_of_toNat_eq <;>
    simp only [argByte0, argByte1, argByte2, BitVec.extractLsb'_toNat, toNat_append_eq_add, Nat.shiftRight_eq_div_pow] <;>
    omega

/-- The results of CONVTH in the words of 42_frame.md R145, ARG holding three bytes. -/
theorem combinedResults_append (t0 t1 tc h0 h1 hc : Byte) :
    combinedResults (t0 ++ t1 ++ tc) h0 h1 hc =
      if checksum .B t0 t1 = tc ∧ checksum .B h0 h1 = hc then
        ⟨true, true, false, false, valueSlot (checksum .B t0 t1) .temperature .B (word16 t0 t1),
          valueSlot (checksum .B h0 h1) .humidity .B (word16 h0 h1)⟩
      else ⟨false, false, false, false, emptySlot (checksum .B t0 t1), emptySlot (checksum .B h0 h1)⟩ := by
  obtain ⟨ht0, ht1, htc⟩ := argBytes_append t0 t1 tc
  rw [combinedResults_eq, ht0, ht1, htc, seed_eq_seedOf]
  rfl

/-- Two writes issued one after the other, to registers `r` and `q`: the second is served in the state the first leaves. -/
theorem steps_two_writes {s t u : State} (hr : s.resetLine = false) {r q : Reg} {v w : Word}
    (ht : writeReg r v s = .next t) (hu : writeReg q w t = .next u) :
    steps 2 (issue (writeAt s r.offset v) (issue (writeAt s q.offset w) s)) = .next u := by
  obtain ⟨f, hf⟩ := writeReg_changes_block_only r v
  obtain rfl := Host.Outcome.next.inj ((hf s).symm.trans ht)
  have h1 := (step_issue_writeAt (s := issue (writeAt s q.offset w) s) hr r v).trans (hf _)
  have h2 := step_issue_writeAt (s := { s with block := f s.block }) hr q w
  exact steps_two h1 (h2.trans hu)

end Sys2Proof.Machine

namespace Sys2Proof.Proofs
open Sys2Proof.Machine Sys2Proof.Spec

/-- Settles O2: a word decodes to the command whose word it is. -/
theorem decodeOfEncodeIsTheCommand : Obligations.DecodeOfEncodeIsTheCommand :=
  fun _ => decode_eq_command_iff.2 rfl

/-- Settles O3: the other direction of the same law. -/
theorem encodeOfDecodeIsTheWord : Obligations.EncodeOfDecodeIsTheWord :=
  fun _ _ => decode_eq_command_iff.1

/-- Settles O4: a row fits the words that decode to its commands, and every command has a row. -/
theorem decodeAgreesWithOpcodeTable : Obligations.DecodeAgreesWithOpcodeTable := by
  refine ⟨fun w r hr => exists_decode_mnemonic_iff hr w, fun w => ?_⟩
  simp only [wellFormedWord, List.any_eq_true, TableRow.fits, beq_iff_eq]
  constructor
  · rintro ⟨r, hr, hfits⟩
    obtain ⟨i, hi, -⟩ := (exists_decode_mnemonic_iff hr w).2 hfits
    exact ⟨i, hi⟩
  · rintro ⟨i, hi⟩
    obtain ⟨r, hr, hmnemonic, -⟩ := i.exists_row
    exact ⟨r, hr, (exists_decode_mnemonic_iff hr w).1 ⟨i, hi, hmnemonic.symm⟩⟩

/-- Settles O5: the three conditions are the failures of the three checks, and the decoder answers by the first
that fails. -/
theorem illegalCauseIsTheFirstFailingCheck : Obligations.IllegalCauseIsTheFirstFailingCheck := by
  intro w badOpcode badField badFamily
  have hop : (CommandFields.ofWord w).opcodeDefined = false ↔ badOpcode := CommandFields.opcodeDefined_eq_false_iff _
  have hzero : (CommandFields.ofWord w).reservedZero = false ↔ badField := CommandFields.reservedZero_eq_false_iff _
  have hfam : (CommandFields.ofWord w).familySupported = false ↔ badFamily :=
    CommandFields.familySupported_eq_false_iff _
  rw [← hop, ← hzero, ← hfam, decode]
  rcases decodeFields_cases (.ofWord w) with ⟨h1, he⟩ | ⟨h1, h2, he⟩ | ⟨h1, h2, h3, he⟩ | ⟨h1, h2, h3, i, -, he⟩
  · simp [h1, he]
  · simp [h1, h2, he]
  · simp [h1, h2, h3, he]
  · simp [h1, h2, h3, he]

/-- Settles O6: the sum, and its hexadecimal digits by the ranges of the fields. -/
theorem commandWordIsTheSumOfItsFields : Obligations.CommandWordIsTheSumOfItsFields := by
  refine ⟨fun i => ⟨encode_toNat i, ?_⟩, fun i => ?_, by decide⟩
  · exact (congrArg CommandFields.rsv (CommandFields.ofWord_toWord i.fields)).trans i.fields_rsv
  · have hsum := encode_toNat i
    have hfam : famField i < 2 := i.fields_fam_toNat ▸ i.fields.fam.isLt
    have h0 := (bytes i).1.isLt
    have h1 := (bytes i).2.1.isLt
    have h2 := (bytes i).2.2.isLt
    refine ⟨by omega, ?_, by omega⟩
    split <;> omega

/-- Settles O10: the CMD write of a word that decodes to a command runs it, in the state before the write was issued. -/
theorem stepRunsTheDecodedCommand : Obligations.StepRunsTheDecodedCommand :=
  fun s w _ hr hd => (step_issue_writeAt hr .cmd w).trans (writeReg_cmd_of_decode hd s)

/-- Settles O56: CRC2 and CHKS as commands run one after another, CONV6 as two writes, CLRERR as one. -/
theorem pseudoInstructionsHaveTheirEffect : Obligations.PseudoInstructionsHaveTheirEffect := by
  refine ⟨fun f d0 d1 s => ?_, fun f d0 d1 c s => ?_, fun t0 t1 tc h0 h1 hc s hr => ?_, fun s hr => ?_⟩
  · exact ⟨_, _, execAll_eq_foldl _ s, exec_eq_blockAfter _ s, rfl⟩
  · refine ⟨_, execAll_eq_foldl _ s, ?_⟩
    rw [checksum, ← seed_eq_seedOf]
    exact beq_iff_eq
  · rw [← combinedResults_append, ← argOfWord_bytes]
    refine steps_two_writes hr (r := .arg) (q := .cmd) rfl ?_
    exact writeReg_cmd_of_decode (decode_eq_command_iff.2 rfl) _
  · exact step_issue_writeAt hr .status 0x80

end Sys2Proof.Proofs
end

section
/-!
SUPPORT and PROOFS for 40_crc.md: the byte step on unbounded numbers, when two byte steps agree, what a change of the seed or
of a data bit does to a checksum, the effects and the refusals of the four CRC commands, and the statements O21, O22, O24 to
O31.
-/
namespace Sys2Proof.Machine
open Sys2Proof.Spec

/-! ## The byte step on unbounded numbers -/

/-- One iteration is that of 40_crc.md R100 on numbers: XORing 0x131 cancels bit 8, so 8 bits lose nothing. -/
theorem toNat_semiconj_crcShift :
    Function.Semiconj BitVec.toNat crcShift fun x => if x.testBit 7 then (x <<< 1) ^^^ 0x131 else x <<< 1 := by
  unfold Function.Semiconj
  decide

/-- The byte step is that of 40_crc.md R100 on numbers. -/
theorem crc8Step_toNat (acc b : Byte) : (crc8Step acc b).toNat = crcStepNumber acc.toNat b.toNat := by
  rw [crc8Step_eq, iterate_eq_iterate, crcStepNumber, ← BitVec.toNat_xor]
  exact toNat_semiconj_crcShift.iterate_right 8 _

/-! ## When two byte steps agree -/

/-- A byte step is a function of the XOR of its operands, and a one-to-one function of it (40_crc.md R110, R112). -/
theorem crc8Step_eq_iff {a b a' b' : Byte} : crc8Step a b = crc8Step a' b' ↔ a ^^^ b = a' ^^^ b' :=
  ⟨iterate_crcShift_injective 8, congrArg (iterate crcShift 8)⟩

theorem crc8Step_left_inj {a a' : Byte} (b : Byte) : crc8Step a b = crc8Step a' b ↔ a = a' :=
  crc8Step_eq_iff.trans (BitVec.xor_left_inj b)

theorem crc8Step_right_inj (a : Byte) {b b' : Byte} : crc8Step a b = crc8Step a b' ↔ b = b' :=
  crc8Step_eq_iff.trans (BitVec.xor_right_inj a)

/-- Feeding the accumulator's own value leaves zero (40_crc.md R106). -/
theorem crc8Step_self (a : Byte) : crc8Step a a = 0 := by
  rw [crc8Step_eq, BitVec.xor_self]
  exact iterate_crcShift_zero 8

/-- The residue is zero exactly if the byte fed is the accumulator's value (40_crc.md R110). -/
theorem crc8Step_eq_zero_iff {a c : Byte} : crc8Step a c = 0 ↔ a = c := by
  rw [← crc8Step_self c, crc8Step_left_inj]

/-- The byte step is linear over XOR (40_crc.md R112). -/
theorem crc8Step_xor (a1 a2 b1 b2 : Byte) : crc8Step (a1 ^^^ a2) (b1 ^^^ b2) = crc8Step a1 b1 ^^^ crc8Step a2 b2 := by
  have hxor : a1 ^^^ a2 ^^^ (b1 ^^^ b2) = a1 ^^^ b1 ^^^ (a2 ^^^ b2) := by ac_rfl
  rw [crc8Step_eq, hxor, iterate_crcShift_xor]
  rfl

/-! ## Checksums of a pair -/

/-- A change of the seed changes the checksum of every pair by the same value (40_crc.md R109). -/
theorem crc8Pair_xor_seed (s e d0 d1 : Byte) : crc8Pair (s ^^^ e) d0 d1 = crc8Pair s d0 d1 ^^^ crc8Pair e 0 0 := by
  simp only [crc8Pair, ← crc8Step_xor, BitVec.ofNat_eq_ofNat, BitVec.xor_zero]

/-- A frame is valid exactly if its CRC byte is the checksum of its pair (40_crc.md R104). -/
theorem check3_snd_iff (f : Family) (d0 d1 c : Byte) : (check3 f d0 d1 c).2 = true ↔ checksum f d0 d1 = c := by
  rw [check3_snd, beq_iff_eq, seed_eq_seedOf, checksum]

/-- XORing in a nonzero value changes a byte. -/
theorem xor_ne_self (d : Byte) {e : Byte} (he : e ≠ 0) : d ^^^ e ≠ d :=
  fun h => he ((BitVec.xor_right_inj d).1 (h.trans BitVec.xor_zero.symm))

/-- A single-bit error changes a byte. -/
theorem xor_twoPow_ne_self (d : Byte) {i : Nat} (hi : i < 8) : d ^^^ BitVec.twoPow 8 i ≠ d := by
  have hbit : ∀ i < 8, BitVec.twoPow 8 i ≠ 0 := by decide
  exact xor_ne_self d (hbit i hi)

/-! ## The CRC commands -/

theorem State.setAcc_acc (s : State) (a : Byte) : (s.setAcc a).block.acc = a := rfl

theorem State.setMatch_matchFlag (s : State) (m : Bool) : (s.setMatch m).block.matchFlag = m := rfl

/-- CRCINIT writes ACC alone (40_crc.md R105). -/
theorem exec_crcinit (f : Family) (s : State) : exec (.crcinit f) s = .next (s.setAcc (seedOf f)) := by
  rw [← seed_eq_seedOf]
  rfl

/-- CRCBYTE writes ACC alone (40_crc.md R106). -/
theorem exec_crcbyte (b : Byte) (s : State) : exec (.crcbyte b) s = .next (s.setAcc (crc8Step s.block.acc b)) := rfl

/-- CRCPAIR writes ACC alone, and does not read it (40_crc.md R107). -/
theorem exec_crcpair (f : Family) (d0 d1 : Byte) (s : State) :
    exec (.crcpair f d0 d1) s = .next (s.setAcc (checksum f d0 d1)) := by
  rw [checksum, ← seed_eq_seedOf]
  rfl

/-- CRCCMP writes MATCH alone (40_crc.md R108). -/
theorem exec_crccmp (c : Byte) (s : State) : exec (.crccmp c) s = .next (s.setMatch (decide (s.block.acc = c))) := rfl

/-- CRCINIT and two CRCBYTE leave the checksum of the two bytes in ACC, and change nothing else (40_crc.md R111). -/
theorem execAll_crcinit_crcbyte_crcbyte (f : Family) (d0 d1 : Byte) (is : List Instr) (s : State) :
    execAll (.crcinit f :: .crcbyte d0 :: .crcbyte d1 :: is) s = execAll is (s.setAcc (checksum f d0 d1)) := by
  simp only [execAll, exec_crcinit, exec_crcbyte]
  rfl

/-- CRCPAIR and then CRCCMP: ACC holds the checksum, and MATCH whether it is the byte compared. -/
theorem execAll_crcpair_crccmp (f : Family) (d0 d1 c : Byte) (s : State) :
    execAll [.crcpair f d0 d1, .crccmp c] s
      = .next ((s.setAcc (checksum f d0 d1)).setMatch (decide (checksum f d0 d1 = c))) := by
  simp only [execAll, exec_crcpair, exec_crccmp]
  rfl

/-- A defined opcode with a nonzero must-be-zero field is illegal(2) (30_encoding.md R75, R77). -/
theorem execute_of_reservedField {w : Word} {k : BitVec 4} (hop : op w = k) (hk : 1 ≤ k.toNat ∧ k.toNat ≤ 11)
    (hfield : (CommandFields.ofWord w).reservedZero = false) (s : State) :
    execute w s = .next (afterIllegal 2 s) := by
  have hdefined : (CommandFields.ofWord w).opcodeDefined = true := by
    have hop' : (CommandFields.ofWord w).op = k := hop
    simpa [CommandFields.opcodeDefined, hop'] using hk
  have hdecode : decode w = .illegal .reservedField := by
    rw [decode, decodeFields_eq, hdefined, hfield]
    rfl
  simp only [execute, hdecode, takeIllegal_eq_afterIllegal, code]

/-- CRCBYTE's and CRCCMP's words with a nonzero FAM, RSV, B0 or B1 (40_crc.md R106, R108). -/
theorem execute_single_byte_reservedField {w : Word} (hop : op w = 0x2 ∨ op w = 0x4)
    (hfield : fam w ≠ 0 ∨ rsv w ≠ 0 ∨ b0 w ≠ 0 ∨ b1 w ≠ 0) (s : State) : execute w s = .next (afterIllegal 2 s) := by
  have hzero : (CommandFields.ofWord w).reservedZero = false := by
    rw [CommandFields.reservedZero_eq_false_iff]
    rcases hfield with hfam | hrsv | hbyte
    · exact .inr (.inr (.inl ⟨hop, .inl hfam⟩))
    · exact .inl hrsv
    · exact .inr (.inr (.inl ⟨hop, .inr hbyte⟩))
  rcases hop with hop | hop <;> exact execute_of_reservedField hop (by decide) hzero s

end Sys2Proof.Machine

namespace Sys2Proof.Proofs
open Sys2Proof.Machine Sys2Proof.Spec

/-- Settles O21: the step on numbers is the number of a byte. -/
theorem crcStepIsTheShiftAlgorithm : Obligations.CrcStepIsTheShiftAlgorithm :=
  fun acc b => ⟨crc8Step_toNat acc b, crc8Step_toNat acc b ▸ (crc8Step acc b).isLt⟩

/-- Settles O22: by the 8-bit form of one iteration. -/
theorem crcStepHasAnEightBitForm : Obligations.CrcStepHasAnEightBitForm := by
  refine ⟨fun acc b => ?_, by decide +kernel⟩
  rw [crc8Step_eq, iterate_eq_iterate, funext crcShift_eq]

/-- Settles O24: the seeds differ by 0xFF, which alone leaves 0x81 after two zero bytes. -/
theorem seedsDifferByConstant : Obligations.SeedsDifferByConstant := by
  intro d0 d1
  have hzeros : crc8Pair 0xFF 0 0 = 0x81 := by decide +kernel
  have hseeds : crc8Pair 0xFF d0 d1 = crc8Pair 0x00 d0 d1 ^^^ 0x81 := by
    rw [← hzeros]
    exact crc8Pair_xor_seed 0x00 0xFF d0 d1
  have hne : crc8Pair 0xFF d0 d1 ≠ crc8Pair 0x00 d0 d1 := by
    rw [hseeds]
    exact xor_ne_self _ (by decide)
  refine ⟨hseeds, hne, fun c => ?_⟩
  simp only [← Bool.not_eq_true, check3_snd_iff]
  exact ⟨fun hA hB => hne (hB.trans hA.symm), fun hB hA => hne (hB.trans hA.symm)⟩

/-- Settles O25: the third CRCBYTE feeds the received byte to the computed checksum. -/
theorem residueIsZeroExactlyForValidFrames : Obligations.ResidueIsZeroExactlyForValidFrames := by
  refine ⟨fun _ _ => crc8Step_eq_zero_iff, fun f d0 d1 c s => ?_⟩
  have hvalid : (check3 f d0 d1 c).2 = true ↔ crc8Step (checksum f d0 d1) c = 0x00 :=
    (check3_snd_iff f d0 d1 c).trans crc8Step_eq_zero_iff.symm
  exact ⟨hvalid, s.setAcc (crc8Step (checksum f d0 d1) c), execAll_crcinit_crcbyte_crcbyte f d0 d1 [.crcbyte c] s, hvalid⟩

/-- Settles O26: both leave the checksum of the pair in ACC. -/
theorem crcpairIsTwoByteSteps : Obligations.CrcpairIsTwoByteSteps :=
  fun f d0 d1 s => ⟨checksum f d0 d1, execAll_crcinit_crcbyte_crcbyte f d0 d1 [] s, exec_crcpair f d0 d1 s⟩

/-- Settles O27: both operands of a byte step are determined by its result and the other. -/
theorem crcStepIsLinearAndDetectsBitErrors : Obligations.CrcStepIsLinearAndDetectsBitErrors := by
  refine ⟨fun _ _ _ _ => crc8Step_eq_iff.2, crc8Step_xor, fun s d0 d1 i hi => ⟨?_, ?_⟩⟩
  · rw [crc8Pair, crc8Pair, ne_eq, crc8Step_left_inj, crc8Step_right_inj]
    exact xor_twoPow_ne_self d0 hi
  · rw [crc8Pair, crc8Pair, ne_eq, crc8Step_right_inj]
    exact xor_twoPow_ne_self d1 hi

/-- Settles O28: the seed does not depend on the state, and family A's is the reset value of ACC. -/
theorem crcinitLoadsTheSeed : Obligations.CrcinitLoadsTheSeed := by
  refine ⟨by decide, exec_crcinit, fun w s hop hfield => ?_, fun f s => ?_, fun n => exec_crcinit .A _,
    fun s => ⟨_, exec_crcinit .B s, rfl⟩⟩
  · refine execute_of_reservedField hop (by decide) ?_ s
    rw [CommandFields.reservedZero_eq_false_iff]
    exact hfield.imp_right fun hbyte => .inl ⟨hop, hbyte⟩
  · exact ⟨_, exec_crcinit f s, exec_crcinit f _⟩

/-- Settles O29: the effect by its law, the corner cases by when two byte steps agree. -/
theorem crcbyteFeedsOneByte : Obligations.CrcbyteFeedsOneByte := by
  refine ⟨fun b => ?_, exec_crcbyte, fun w s hop hfield => execute_single_byte_reservedField (.inl hop) hfield s,
    crc8Step_self, crc8Step_self 0x00, by decide, fun _ _ _ _ => crc8Step_eq_iff.2, by decide, fun s hacc => ?_⟩
  · simp only [encode_toNat, Spec.opcode, famField, bytes]
    bv_omega
  · refine ⟨_, exec_crcbyte 0xBE s, ?_⟩
    have hexample : crc8Step 0xFF 0xBE = 0x0C := by decide
    rw [State.setAcc_acc, hacc, hexample]

/-- Settles O30: the effect by its law, which does not mention the old ACC. -/
theorem crcpairComputesFromTheSeed : Obligations.CrcpairComputesFromTheSeed := by
  refine ⟨fun f d0 d1 => ?_, exec_crcpair, fun w s hop hfield => ?_, by decide +kernel, fun s => ?_⟩
  · simp only [encode_toNat, Spec.opcode, famField, bytes]
    bv_omega
  · refine execute_of_reservedField hop (by decide) ?_ s
    rw [CommandFields.reservedZero_eq_false_iff]
    exact hfield.imp_right fun hbyte => .inr (.inr ⟨.inl hop, hbyte⟩)
  · have hexample : checksum .B 0xBE 0xEF = 0x92 := by decide +kernel
    exact ⟨_, exec_crcpair .B 0xBE 0xEF s, (State.setAcc_acc s _).trans hexample⟩

/-- Settles O31: the effect by its law, the example by the checksum of its pair. -/
theorem crccmpComparesTheAccumulator : Obligations.CrccmpComparesTheAccumulator := by
  refine ⟨fun c => ?_, exec_crccmp, fun w s hop hfield => execute_single_byte_reservedField (.inr hop) hfield s,
    fun n => ⟨_, exec_crccmp 0x00 _, rfl⟩, fun s => ?_⟩
  · simp only [encode_toNat, Spec.opcode, famField, bytes]
    bv_omega
  · have hequal : decide (checksum .B 0xBE 0xEF = 0x92) = true := by decide +kernel
    have hdifferent : decide (checksum .B 0xBE 0xEF = 0x93) = false := by decide +kernel
    exact ⟨_, _, execAll_crcpair_crccmp .B 0xBE 0xEF 0x92 s, (State.setMatch_matchFlag _ _).trans hequal,
      execAll_crcpair_crccmp .B 0xBE 0xEF 0x93 s, (State.setMatch_matchFlag _ _).trans hdifferent⟩

end Sys2Proof.Proofs
end

section
/-!
SUPPORT and PROOFS for 41_convert.md: every conversion as one linear function of the masked raw code, rounding to nearest by
its bounds, the effects of RAWT and RAWH, the invariant of the reported values, and the statements O32 to O41 and O58.
-/
namespace Sys2Proof.Machine
open Sys2Proof.Spec

/-! ## The four conversions as one linear function of the masked code (41_convert.md R121 to R123) -/

/-- How much NUM grows when the masked code grows by one (41_convert.md R122, R123). -/
def numSlope : Quantity → Family → Nat
  | .temperature, .A => 17572
  | .temperature, .B => 175
  | .humidity, .A => 125
  | .humidity, .B => 100

/-- NUM of the masked code 0 (41_convert.md R122, R123). -/
def numAtZero : Quantity → Family → Int
  | .temperature, .A => -307036160
  | .temperature, .B => -2949075
  | .humidity, .A => -393216
  | .humidity, .B => 0

/-- DEN, which no raw code changes (41_convert.md R124). -/
def denOf : Quantity → Family → Nat
  | .temperature, .A => 6553600
  | .temperature, .B => 65535
  | .humidity, .A => 65536
  | .humidity, .B => 65535

theorem conv_eq (q : Quantity) (f : Family) (r : Raw) :
    conv q f r = (numSlope q f * masked f r + numAtZero q f, denOf q f) := by
  cases q <;> cases f <;> rfl

theorem conv_snd (q : Quantity) (f : Family) (r : Raw) : (conv q f r).2 = denOf q f := by rw [conv_eq]

theorem denOf_pos (q : Quantity) (f : Family) : 0 < denOf q f := by cases q <;> cases f <;> decide

theorem value_eq (q : Quantity) (f : Family) (r : Raw) : value q f r = ((conv q f r).1 : ℚ) / denOf q f := by
  rw [value, conv_snd]

theorem fixed_eq (q : Quantity) (f : Family) (r : Raw) : fixed q f r = fxRound (conv q f r).1 (denOf q f) := by
  rw [fixed, conv_snd]

/-! ## The masked code -/

/-- Family A: the ends of the masked code are taken by the first and the last group of four raw codes. -/
theorem masked_A_range (r : Raw) :
    masked .A r ≤ 0xFFFC ∧ (masked .A r = 0 ↔ r.toNat ≤ 0x0003) ∧ (masked .A r = 0xFFFC ↔ 0xFFFC ≤ r.toNat) := by
  have := r.isLt
  rw [masked_A]
  omega

/-- Family B: the ends of the masked code are taken by the first and the last raw code. -/
theorem masked_B_range (r : Raw) :
    masked .B r ≤ 0xFFFF ∧ (masked .B r = 0 ↔ r = 0x0000) ∧ (masked .B r = 0xFFFF ↔ r = 0xFFFF) :=
  ⟨Nat.le_of_lt_succ r.isLt, BitVec.toNat_inj (y := 0x0000), BitVec.toNat_inj (y := 0xFFFF)⟩

theorem cast_masked_nonneg (f : Family) (r : Raw) : (0 : ℚ) ≤ masked f r := Nat.cast_nonneg _

theorem cast_masked_A_le (r : Raw) : (masked .A r : ℚ) ≤ 65532 := by exact_mod_cast (masked_A_range r).1

theorem cast_masked_B_le (r : Raw) : (masked .B r : ℚ) ≤ 65535 := by exact_mod_cast (masked_B_range r).1

/-- A larger raw code has no smaller masked code. -/
theorem masked_mono (f : Family) {r r' : Raw} (h : r.toNat ≤ r'.toNat) : masked f r ≤ masked f r' := by
  cases f with
  | A => rw [masked_A, masked_A]; omega
  | B => exact h

/-- Family A's conversions tell groups of four codes apart and no more (41_convert.md R132). -/
theorem masked_A_eq_of_div_eq {r r' : Raw} (h : r.toNat / 4 = r'.toNat / 4) : masked .A r = masked .A r' := by
  rw [masked_A, masked_A, h]

theorem masked_A_lt_of_div_lt {r r' : Raw} (h : r.toNat / 4 < r'.toNat / 4) : masked .A r < masked .A r' := by
  rw [masked_A, masked_A]
  omega

theorem conv_eq_of_masked_eq (q : Quantity) {f : Family} {r r' : Raw} (h : masked f r = masked f r') :
    conv q f r = conv q f r' := by
  rw [conv_eq, conv_eq, h]

/-- Setting the two low bits stays in the group of four codes. -/
theorem or_three_div_four (r : Raw) : r.toNat / 4 = (r ||| (0x3 : Raw)).toNat / 4 := by
  have hshift : (r ||| (0x3 : Raw)).toNat >>> 2 = r.toNat >>> 2 := by
    rw [BitVec.toNat_or, Nat.shiftRight_or_distrib]
    exact Nat.or_zero _
  simpa only [Nat.shiftRight_eq_div_pow] using hshift.symm

/-- Clearing the two low bits of a byte, as arithmetic. -/
theorem and_FC_div_four (b : Byte) : (b &&& (0xFC : Byte)).toNat / 4 = b.toNat / 4 := by
  revert b
  decide

/-! ## The physical value (41_convert.md R125) -/

theorem value_temperature_A (r : Raw) : value .temperature .A r = -46.85 + 175.72 * ((masked .A r : ℚ) / 65536) := by
  simp only [value, conv_temperature, convT]
  push_cast
  ring

theorem value_humidity_A (r : Raw) : value .humidity .A r = -6 + 125 * ((masked .A r : ℚ) / 65536) := by
  simp only [value, conv_humidity, convH]
  push_cast
  ring

theorem value_temperature_B (r : Raw) : value .temperature .B r = -45 + 175 * ((masked .B r : ℚ) / 65535) := by
  simp only [value, conv_temperature, convT]
  push_cast
  ring

theorem value_humidity_B (r : Raw) : value .humidity .B r = 100 * ((masked .B r : ℚ) / 65535) := by
  simp only [value, conv_humidity, convH]
  push_cast
  ring

/-- Comparing a value with an integer is comparing NUM with that many times DEN. -/
theorem value_lt_intCast_iff (q : Quantity) (f : Family) (r : Raw) (c : ℤ) :
    value q f r < c ↔ (conv q f r).1 < c * denOf q f := by
  have hpos : (0 : ℚ) < denOf q f := by exact_mod_cast denOf_pos q f
  rw [value_eq, div_lt_iff₀ hpos]
  norm_cast

theorem intCast_lt_value_iff (q : Quantity) (f : Family) (r : Raw) (c : ℤ) :
    c < value q f r ↔ c * denOf q f < (conv q f r).1 := by
  have hpos : (0 : ℚ) < denOf q f := by exact_mod_cast denOf_pos q f
  rw [value_eq, lt_div_iff₀ hpos]
  norm_cast

/-- Family A's humidity is below 0 %RH for the first codes and above 100 %RH for the last (41_convert.md R130). -/
theorem value_humidity_A_thresholds (r : Raw) :
    (value .humidity .A r < 0 ↔ r.toNat < 0x0C4C) ∧ (100 < value .humidity .A r ↔ 0xD918 ≤ r.toNat) := by
  have hneg := value_lt_intCast_iff .humidity .A r 0
  have hover := intCast_lt_value_iff .humidity .A r 100
  rw [Int.cast_zero] at hneg
  rw [Int.cast_ofNat] at hover
  simp only [hneg, hover, conv_eq, masked_A, numSlope, numAtZero, denOf]
  omega

/-- Family B's humidity is 0 to 100 %RH (41_convert.md R124, R130). -/
theorem value_humidity_B_range (r : Raw) : 0 ≤ value .humidity .B r ∧ value .humidity .B r ≤ 100 := by
  rw [value_humidity_B]
  exact ⟨by linarith [cast_masked_nonneg .B r], by linarith [cast_masked_B_le r]⟩

/-! ## Rounding to nearest (41_convert.md R126) -/

theorem fxRound_eq_ediv (n : Int) {d : Nat} (hd : 0 < d) : fxRound n d = (n * 131072 + d) / (2 * d) :=
  fdiv_of_pos _ (by omega)

/-- FX is the integer whose distance to NUM * 2^16 / DEN is at most a half, a half only from above: both sides multiplied by
2 * DEN. -/
theorem fxRound_bounds (n : Int) {d : Nat} (hd : 0 < d) :
    -(d : ℤ) < 2 * fxRound n d * d - n * 131072 ∧ 2 * fxRound n d * d - n * 131072 ≤ d := by
  have hpos : (0 : ℤ) < 2 * d := by omega
  have hle := Int.mul_ediv_self_le (x := n * 131072 + d) hpos.ne'
  have hlt := Int.lt_mul_ediv_self_add (x := n * 131072 + d) hpos
  rw [← fxRound_eq_ediv n hd] at hle hlt
  constructor <;> linarith

/-- The bounds determine FX. -/
theorem fxRound_eq_of_bounds {n : Int} {d : Nat} {y : ℤ} (hlt : -(d : ℤ) < 2 * y * d - n * 131072)
    (hle : 2 * y * d - n * 131072 ≤ d) : fxRound n d = y := by
  have hd : 0 < d := by omega
  rw [fxRound_eq_ediv n hd, Int.ediv_eq_iff_of_pos (by omega)]
  constructor <;> linarith

/-- The distance of `y` / 2^16 to NUM / DEN, as an integer over 2^17 * DEN. -/
theorem abs_sub_eq (n y : ℤ) {d : ℕ} (hd : 0 < d) :
    |(y : ℚ) / 65536 - (n : ℚ) / d| = ((|2 * y * d - n * 131072| : ℤ) : ℚ) / (131072 * d) := by
  have hd' : (0 : ℚ) < d := by exact_mod_cast hd
  have hfrac : (y : ℚ) / 65536 - (n : ℚ) / d = ((2 * y * d - n * 131072 : ℤ) : ℚ) / (131072 * d) := by
    push_cast
    field_simp
    ring
  rw [hfrac, abs_div, abs_of_pos (by positivity : (0 : ℚ) < 131072 * d), Int.cast_abs]

/-- If NUM * 2^16 / DEN is no odd multiple of 1/2, every other integer is farther from it than FX. -/
theorem fxRound_unique_nearest {n : ℤ} {d : ℕ} (hd : 0 < d) (htie : ∀ k : ℤ, 2 * (n * 2 ^ 16) ≠ (2 * k + 1) * d) {y : ℤ}
    (hy : y ≠ fxRound n d) :
    |(fxRound n d : ℚ) / 65536 - (n : ℚ) / d| < |(y : ℚ) / 65536 - (n : ℚ) / d| := by
  obtain ⟨hlt, hle⟩ := fxRound_bounds n hd
  generalize fxRound n d = x at hlt hle hy ⊢
  have hne : 2 * x * d - n * 131072 ≠ d := fun h => htie (x - 1) (by linarith)
  have hle' := lt_of_le_of_ne hle hne
  have hnear : |2 * x * d - n * 131072| < (d : ℤ) := abs_lt.2 ⟨hlt, hle'⟩
  have hfar : (d : ℤ) < |2 * y * d - n * 131072| := by
    rcases lt_or_gt_of_ne hy with h | h
    · have hmul : (y + 1) * d ≤ x * d := by gcongr; exact h
      exact lt_abs.2 (.inr (by linarith))
    · have hmul : (x + 1) * d ≤ y * d := by gcongr; exact h
      exact lt_abs.2 (.inl (by linarith))
  rw [abs_sub_eq n x hd, abs_sub_eq n y hd]
  gcongr
  exact hnear.trans hfar

/-- A numerator larger by at least DEN / 2^16 has a larger FX. -/
theorem fxRound_lt {n n' : ℤ} {d : ℕ} (hd : 0 < d) (h : n * 65536 + d ≤ n' * 65536) : fxRound n d < fxRound n' d := by
  obtain ⟨-, hle⟩ := fxRound_bounds n hd
  obtain ⟨hlt, -⟩ := fxRound_bounds n' hd
  by_contra hn
  have hmul : fxRound n' d * d ≤ fxRound n d * d := by gcongr; exact not_lt.1 hn
  linarith

/-! ## Order (41_convert.md R133) -/

theorem denOf_le_numSlope_mul (q : Quantity) (f : Family) : denOf q f ≤ numSlope q f * 65536 := by
  cases q <;> cases f <;> decide

/-- A larger masked code gives a numerator larger by at least DEN / 2^16. -/
theorem num_add_le_of_masked_lt (q : Quantity) {f : Family} {r r' : Raw} (h : masked f r < masked f r') :
    (conv q f r).1 * 65536 + denOf q f ≤ (conv q f r').1 * 65536 := by
  have hden : (denOf q f : ℤ) ≤ numSlope q f * 65536 := by exact_mod_cast denOf_le_numSlope_mul q f
  have hstep : (numSlope q f : ℤ) * (masked f r + 1) ≤ numSlope q f * masked f r' := by gcongr; exact_mod_cast h
  simp only [conv_eq]
  linarith

theorem fixed_lt_of_masked_lt (q : Quantity) {f : Family} {r r' : Raw} (h : masked f r < masked f r') :
    fixed q f r < fixed q f r' := by
  rw [fixed_eq, fixed_eq]
  exact fxRound_lt (denOf_pos q f) (num_add_le_of_masked_lt q h)

theorem num_lt_of_masked_lt (q : Quantity) {f : Family} {r r' : Raw} (h : masked f r < masked f r') :
    (conv q f r).1 < (conv q f r').1 := by
  have := num_add_le_of_masked_lt q h
  have := denOf_pos q f
  omega

theorem value_lt_of_masked_lt (q : Quantity) {f : Family} {r r' : Raw} (h : masked f r < masked f r') :
    value q f r < value q f r' := by
  have hpos : (0 : ℚ) < denOf q f := by exact_mod_cast denOf_pos q f
  rw [value_eq, value_eq]
  gcongr
  exact num_lt_of_masked_lt q h

/-- NUM, NUM / DEN and FX never decrease. -/
theorem conv_mono (q : Quantity) (f : Family) {r r' : Raw} (h : r.toNat ≤ r'.toNat) :
    (conv q f r).1 ≤ (conv q f r').1 ∧ value q f r ≤ value q f r' ∧ fixed q f r ≤ fixed q f r' := by
  rcases (masked_mono f h).eq_or_lt with heq | hlt
  · simp only [value, fixed, conv_eq_of_masked_eq q heq, le_refl, and_self]
  · exact ⟨(num_lt_of_masked_lt q hlt).le, (value_lt_of_masked_lt q hlt).le, (fixed_lt_of_masked_lt q hlt).le⟩

/-- The ends are at the raw codes 0x0000 and 0xFFFF (41_convert.md R124, R127). -/
theorem conv_between_ends (q : Quantity) (f : Family) (r : Raw) :
    ((conv q f 0x0000).1 ≤ (conv q f r).1 ∧ (conv q f r).1 ≤ (conv q f 0xFFFF).1) ∧
      fixed q f 0x0000 ≤ fixed q f r ∧ fixed q f r ≤ fixed q f 0xFFFF := by
  obtain ⟨hnum, -, hfx⟩ := conv_mono q f (r := 0x0000) (r' := r) (Nat.zero_le _)
  obtain ⟨hnum', -, hfx'⟩ := conv_mono q f (r := r) (r' := 0xFFFF) (Nat.le_of_lt_succ r.isLt)
  exact ⟨⟨hnum, hnum'⟩, hfx, hfx'⟩

/-! ## Registers -/

/-- What fits signed 32 bits reads back as itself (00_scope.md R8). -/
theorem encS32_toInt {n : ℤ} (hge : -2 ^ 31 ≤ n) (hlt : n < 2 ^ 31) : (encS32 n).toInt = n :=
  BitVec.toInt_ofInt_eq_self (by decide) hge hlt

/-- No numerator and no FX leaves the signed 32-bit range or reaches its least number (41_convert.md R124, R127). -/
theorem conv_in_register (q : Quantity) (f : Family) (r : Raw) :
    (-2 ^ 31 < (conv q f r).1 ∧ (conv q f r).1 < 2 ^ 31) ∧ -2 ^ 31 < fixed q f r ∧ fixed q f r < 2 ^ 31 := by
  obtain ⟨⟨hnum, hnum'⟩, hfx, hfx'⟩ := conv_between_ends q f r
  have hends : (-2 ^ 31 < (conv q f 0x0000).1 ∧ (conv q f 0xFFFF).1 < 2 ^ 31) ∧
      -2 ^ 31 < fixed q f 0x0000 ∧ fixed q f 0xFFFF < 2 ^ 31 := by
    cases q <;> cases f <;> decide
  obtain ⟨⟨h1, h2⟩, h3, h4⟩ := hends
  exact ⟨⟨h1.trans_le hnum, hnum'.trans_lt h2⟩, h3.trans_le hfx, hfx'.trans_lt h4⟩

theorem encS32_num_toInt (q : Quantity) (f : Family) (r : Raw) : (encS32 (conv q f r).1).toInt = (conv q f r).1 := by
  obtain ⟨⟨hgt, hlt⟩, -⟩ := conv_in_register q f r
  exact encS32_toInt hgt.le hlt

theorem encS32_fixed_toInt (q : Quantity) (f : Family) (r : Raw) : (encS32 (fixed q f r)).toInt = fixed q f r := by
  obtain ⟨-, hgt, hlt⟩ := conv_in_register q f r
  exact encS32_toInt hgt.le hlt

/-! ## No ties (41_convert.md R131) -/

/-- 65535 is odd; 65536 divides NUM * 2^16; with DEN = 100 * 2^16, NUM is a multiple of 4 and a tie would need
NUM = 50 * (2 * k + 1). -/
theorem conv_no_tie (q : Quantity) (f : Family) (r : Raw) (k : ℤ) :
    2 * ((conv q f r).1 * 2 ^ 16) ≠ (2 * k + 1) * denOf q f := by
  cases f with
  | A => cases q <;> simp only [conv_eq, masked_A, numSlope, numAtZero, denOf] <;> omega
  | B => cases q <;> simp only [denOf] <;> omega

/-! ## RAWT and RAWH (41_convert.md R129, R130) -/

theorem exec_rawt (f : Family) (r0 r1 : Byte) (s : State) : exec (.rawt f r0 r1) s = .next (withResults s
    ⟨true, false, false, false, valueSlot 0x00 .temperature f (word16 r0 r1), emptySlot 0x00⟩) := rfl

theorem exec_rawh (f : Family) (r0 r1 : Byte) (s : State) : exec (.rawh f r0 r1) s = .next (withResults s
    ⟨true, false, false, false, valueSlot 0x00 .humidity f (word16 r0 r1), emptySlot 0x00⟩) := rfl

/-- RAWT's and RAWH's words with a nonzero RSV or B2. -/
theorem execute_raw_reservedField {w : Word} (hop : op w = 0xA ∨ op w = 0xB) (hfield : rsv w ≠ 0 ∨ b2 w ≠ 0) (s : State) :
    execute w s = .next (afterIllegal 2 s) := by
  have hzero : (CommandFields.ofWord w).reservedZero = false := by
    rw [CommandFields.reservedZero_eq_false_iff]
    exact hfield.imp_right fun hbyte => .inr (.inr ⟨.inr hop, hbyte⟩)
  rcases hop with hop | hop <;> exact execute_of_reservedField hop (by decide) hzero s

/-! ## The invariant of the reported values (41_convert.md R128) -/

/-- Both slots' values are conversions of their raw codes: `State.Explained` for a result group. -/
def Results.Explained (r : Results) : Prop := r.slot0.Explained ∧ r.slot1.Explained

theorem State.explained_iff (s : State) : s.Explained ↔ s.block.results.Explained := Iff.rfl

/-- The denominator fits its register. -/
theorem writeConv_den_toNat (q : Quantity) (f : Family) (r : Raw) (sl : Slot) :
    (writeConv q f r sl).den.toNat = (conv q f r).2 := by
  rw [writeConv_den, conv_snd]
  cases q <;> cases f <;> rfl

theorem writeConv_explained (q : Quantity) (f : Family) (r : Raw) (sl : Slot) : (writeConv q f r sl).Explained :=
  fun _ => ⟨q, f, r, rfl, rfl, writeConv_den_toNat q f r sl, rfl⟩

theorem Results.explained_of_den_zero {r : Results} (h0 : r.slot0.den = 0) (h1 : r.slot1.den = 0) : r.Explained :=
  ⟨Slot.explained_of_den_zero h0, Slot.explained_of_den_zero h1⟩

theorem frameResults_explained (f : Family) (d0 d1 c : Byte) {accept : Results → Results}
    (h : ∀ k, (accept { Results.empty with slot0 := { Slot.empty with crc := k } }).Explained) :
    (frameResults f d0 d1 c accept).Explained := by
  rw [frameResults_eq]
  split
  · exact h _
  · exact Results.explained_of_den_zero rfl rfl

theorem acceptConv_explained (q : Quantity) (f : Family) (r : Raw) (k : Byte) :
    (acceptConv q f r { Results.empty with slot0 := { Slot.empty with crc := k } }).Explained :=
  ⟨writeConv_explained _ _ _ _, Slot.explained_of_den_zero rfl⟩

theorem combinedResults_explained (arg : BitVec 24) (h0 h1 hc : Byte) : (combinedResults arg h0 h1 hc).Explained := by
  rw [combinedResults_eq]
  split
  · exact ⟨writeConv_explained _ _ _ _, writeConv_explained _ _ _ _⟩
  · exact Results.explained_of_den_zero rfl rfl

/-- Every command leaves conversions, or no values, or the result group it found. -/
theorem resultGroup_explained {r : Results} (h : r.Explained) (i : Instr) (arg : BitVec 24) :
    (resultGroup i arg r).Explained := by
  cases i with
  | crcinit | crcbyte | crcpair | crccmp => exact h
  | chk3 | htrstat => exact frameResults_explained _ _ _ _ fun _ => Results.explained_of_den_zero rfl rfl
  | convt | convh => exact frameResults_explained _ _ _ _ (acceptConv_explained _ _ _)
  | convth => exact combinedResults_explained _ _ _ _
  | rawt | rawh => exact ⟨writeConv_explained _ _ _ _, Slot.explained_of_den_zero rfl⟩

/-- Only a command touches the result group. -/
theorem AccessEffect.keeps_explained {s : State} {a : Access} {b : Block} (he : AccessEffect s a b)
    (h : s.block.results.Explained) : b.results.Explained := by
  cases he with
  | command => exact resultGroup_explained h _ _
  | unchanged | illegal | argWrite | errorClear => exact h

end Sys2Proof.Machine

namespace Sys2Proof.Proofs
open Sys2Proof.Machine Sys2Proof.Spec

/-- Settles O58: a command leaves conversions, no values or the group it found; no other access writes the group. -/
theorem everyStepKeepsValuesExplained : Obligations.EveryStepKeepsValuesExplained := by
  intro s t hs h
  obtain ⟨a, rest, -, hp, -⟩ := step_cases h
  exact t.explained_iff.2 ((step_accessEffect hp h).keeps_explained (s.explained_iff.1 hs))

/-- Settles O32: the four formulas; family A's AND is the masked code. -/
theorem conversionIsTheExactFormula : Obligations.ConversionIsTheExactFormula :=
  fun r => ⟨value_temperature_A r, value_humidity_A r, value_temperature_B r, value_humidity_B r⟩

/-- Settles O33: each numerator and each value is linear in the masked code, whose ends are known. -/
theorem numeratorsStayInTheirRanges : Obligations.NumeratorsStayInTheirRanges := by
  refine ⟨fun r => ⟨rfl, ?_⟩, fun r => ⟨rfl, ?_⟩, fun r => ⟨rfl, ?_⟩, fun r => ⟨rfl, ?_⟩, fun q f r => ?_⟩
  · obtain ⟨hle, hmin, hmax⟩ := masked_A_range r
    have hge' := cast_masked_nonneg .A r
    have hle' := cast_masked_A_le r
    rw [← hmin, ← hmax, value_temperature_A, convT]
    refine ⟨by omega, by omega, by omega, by omega, by linarith, by linarith, fun h => ?_⟩
    rw [h]
    norm_num
  · obtain ⟨hle, hmin, hmax⟩ := masked_A_range r
    have hge' := cast_masked_nonneg .A r
    have hle' := cast_masked_A_le r
    rw [← hmin, ← hmax, value_humidity_A, convH]
    refine ⟨by omega, by omega, by omega, by omega, by linarith, by linarith, fun h => ?_⟩
    rw [h]
    norm_num
  · obtain ⟨hle, hmin, hmax⟩ := masked_B_range r
    have hge' := cast_masked_nonneg .B r
    have hle' := cast_masked_B_le r
    rw [← hmin, ← hmax, value_temperature_B, convT]
    exact ⟨by omega, by omega, by omega, by omega, by linarith, by linarith⟩
  · obtain ⟨hle, hmin, hmax⟩ := masked_B_range r
    rw [← hmin, ← hmax, convH]
    exact ⟨by omega, by omega, by omega, by omega, value_humidity_B_range r⟩
  · obtain ⟨⟨hgt, hlt⟩, -⟩ := conv_in_register q f r
    exact ⟨hgt, hlt, encS32_num_toInt q f r⟩

/-- Settles O34: by the bounds of the rounding. -/
theorem fixedPointRoundsToNearest : Obligations.FixedPointRoundsToNearest := by
  refine ⟨fun n d hd => ⟨?_, ?_, fun k hk => ?_⟩, fun n => ?_⟩
  · have hcast : ((n : ℚ) * 2 ^ 17 + d) / (2 * d) = ((n * 131072 + d : ℤ) : ℚ) / ((2 * d : ℕ) : ℚ) := by
      push_cast
      norm_num
    rw [hcast, Rat.floor_intCast_div_natCast, fxRound_eq_ediv n hd]
    norm_num
  · obtain ⟨hlt, hle⟩ := fxRound_bounds n hd
    have hd' : (0 : ℚ) < d := by exact_mod_cast hd
    have habs : ((|2 * fxRound n d * d - n * 131072| : ℤ) : ℚ) ≤ d := by exact_mod_cast abs_le.2 ⟨hlt.le, hle⟩
    rw [abs_sub_eq n _ hd, div_le_div_iff₀ (by positivity) (by positivity)]
    linarith
  · exact fxRound_eq_of_bounds (by linarith) (by linarith)
  · exact fxRound_eq_of_bounds (by omega) (by omega)

/-- Settles O35: FX is monotone, so its ends are its values at the first and the last raw code. -/
theorem fixedPointStaysInItsRanges : Obligations.FixedPointStaysInItsRanges := by
  refine ⟨fun r => ?_, by decide, fun q f r => ⟨encS32_fixed_toInt q f r, fun h => ?_⟩⟩
  · obtain ⟨-, hTA⟩ := conv_between_ends .temperature .A r
    obtain ⟨-, hHA⟩ := conv_between_ends .humidity .A r
    obtain ⟨-, hTB⟩ := conv_between_ends .temperature .B r
    obtain ⟨-, hHB⟩ := conv_between_ends .humidity .B r
    exact ⟨hTA.1, hTA.2, hHA.1, hHA.2, hTB.1, hTB.2, hHB.1, hHB.2⟩
  · obtain ⟨-, hgt, -⟩ := conv_in_register q f r
    have hsentinel := congrArg BitVec.toInt h
    rw [encS32_fixed_toInt] at hsentinel
    exact hgt.ne' hsentinel

/-- Settles O36: no conversion is a tie, so rounding has one nearest value. -/
theorem noConversionIsATie : Obligations.NoConversionIsATie := by
  intro q f r
  have hpos : (0 : ℚ) < denOf q f := by exact_mod_cast denOf_pos q f
  rw [value_eq, fixed_eq]
  refine ⟨fun k hk => conv_no_tie q f r k ?_, fun y hy => fxRound_unique_nearest (denOf_pos q f) (conv_no_tie q f r) hy⟩
  field_simp at hk
  exact_mod_cast (by linarith : (2 * ((conv q f r).1 * 2 ^ 16) : ℚ) = (2 * k + 1) * denOf q f)

/-- Settles O37: `raw` and `raw ||| 3` have one masked code; family B's masked code is the raw code. -/
theorem familyAIgnoresTheLowBits : Obligations.FamilyAIgnoresTheLowBits := by
  refine ⟨fun r => ?_, fun r hr => ?_, 0x0000, by decide⟩
  · have hmasked := masked_A_eq_of_div_eq (or_three_div_four r)
    exact ⟨conv_eq_of_masked_eq .temperature hmasked, conv_eq_of_masked_eq .humidity hmasked⟩
  · have hsucc : (r + 1).toNat = r.toNat + 1 := by bv_omega
    simp only [convT, convH, masked_B, hsucc]
    push_cast
    constructor <;> ring

/-- Settles O38: by the order of the masked codes. -/
theorem conversionsAreMonotone : Obligations.ConversionsAreMonotone := by
  refine fun q r r' => ⟨fun f h => (conv_mono q f h).2, fun h => ?_, fun h => ?_, fun h => ?_⟩
  · exact ⟨value_lt_of_masked_lt q h, fixed_lt_of_masked_lt q h⟩
  · simp only [value, fixed, conv_eq_of_masked_eq q (masked_A_eq_of_div_eq h), and_self]
  · have hmasked := masked_A_lt_of_div_lt h
    exact ⟨value_lt_of_masked_lt q hmasked, fixed_lt_of_masked_lt q hmasked⟩

/-- Settles O40: the effect by its law; the example by evaluating the slot. -/
theorem rawtConvertsToTemperature : Obligations.RawtConvertsToTemperature := by
  refine ⟨fun f r0 r1 => ?_, toNat_append_eq_add, exec_rawt, fun w s hop hfield => ?_, fun r0 r1 => ?_, fun f r => ?_,
    fun s => ?_⟩
  · simp only [encode_toNat, Spec.opcode, famField, bytes]
    bv_omega
  · exact execute_raw_reservedField (.inl hop) hfield s
  · refine conv_eq_of_masked_eq .temperature (masked_A_eq_of_div_eq ?_)
    have hlow := and_FC_div_four r1
    rw [word16, word16, toNat_append_eq_add, toNat_append_eq_add]
    omega
  · obtain ⟨⟨hmin, hmax⟩, -⟩ := conv_between_ends .temperature f r
    exact ⟨hmin, hmax, encS32_num_toInt .temperature f r⟩
  · have hslot : valueSlot 0x00 .temperature .B (word16 0xFF 0xFF) = ⟨0x00, 0x0000FFFF, 0x0081FF7E, 65535, 0x00820000⟩ := by
      decide
    rw [exec_rawt, hslot]

/-- Settles O41: the effect by its law, the thresholds by the sign of a numerator; the example by evaluating the slot. -/
theorem rawhConvertsToHumidity : Obligations.RawhConvertsToHumidity := by
  refine ⟨fun f r0 r1 => ?_, exec_rawh, fun w s hop hfield => ?_, fun r => ?_, fun s => ?_, ?_⟩
  · simp only [encode_toNat, Spec.opcode, famField, bytes]
    bv_omega
  · exact execute_raw_reservedField (.inr hop) hfield s
  · obtain ⟨hneg, hover⟩ := value_humidity_A_thresholds r
    exact ⟨hneg, hover, value_humidity_B_range r⟩
  · have hslot : valueSlot 0x00 .humidity .A (word16 0x80 0x00) = ⟨0x00, 0x00008000, 0x00388000, 65536, 0x00388000⟩ := by
      decide
    rw [exec_rawh, hslot]
  · have hmasked : masked .A 0x8000 = 32768 := by decide
    rw [value_humidity_A, hmasked]
    norm_num

/-- Settles O39: NUM, DEN and FX by evaluation, the values by the formulas. -/
theorem endPointsAreExact : Obligations.EndPointsAreExact := by
  unfold Obligations.EndPointsAreExact
  have hA : masked .A 0x0000 = 0 := by decide
  have hB : masked .B 0xFFFF = 65535 := by decide
  have hfxA : fixed .temperature .A 0x0000 = -3070362 := by decide
  have hfxB : fixed .temperature .B 0xFFFF = 8519680 := by decide
  rw [value_temperature_A, value_temperature_B, hA, hB, hfxA, hfxB]
  refine ⟨by decide, ?_, rfl, by decide, ?_, by decide, ?_, by decide, ?_⟩ <;> norm_num

end Sys2Proof.Proofs
end

section
/-!
SUPPORT and PROOFS for 42_frame.md: the checksum as frame check, the refusals and the effects of the five frame commands, and
the statements O42 to O50.
-/
namespace Sys2Proof.Machine
open Sys2Proof.Spec

/-! ## Words that are no frame command -/

/-- A defined opcode with a nonzero RSV is illegal(2) (30_encoding.md R75, R77). -/
theorem execute_of_rsv_ne_zero {w : Word} {k : BitVec 4} (hop : op w = k) (hk : 1 ≤ k.toNat ∧ k.toNat ≤ 11)
    (hrsv : rsv w ≠ 0) (s : State) : execute w s = .next (afterIllegal 2 s) :=
  execute_of_reservedField hop hk ((CommandFields.reservedZero_eq_false_iff _).2 (.inl hrsv)) s

/-- CONVTH's and HTRSTAT's words with RSV = 0 and FAM = 0 are illegal(3) (30_encoding.md R76, R77). -/
theorem execute_of_familyUnsupported {w : Word} (hop : op w = 0x8 ∨ op w = 0x9) (hrsv : rsv w = 0) (hfam : fam w = 0)
    (s : State) : execute w s = .next (afterIllegal 3 s) := by
  have hop' : (CommandFields.ofWord w).op = 0x8 ∨ (CommandFields.ofWord w).op = 0x9 := hop
  have hrsv' : (CommandFields.ofWord w).rsv = 0 := hrsv
  have hfamily : (CommandFields.ofWord w).familySupported = false :=
    (CommandFields.familySupported_eq_false_iff _).2 ⟨hop, hfam⟩
  have hchecks : (CommandFields.ofWord w).opcodeDefined = true ∧ (CommandFields.ofWord w).reservedZero = true := by
    rcases hop' with h | h <;> simp [CommandFields.opcodeDefined, CommandFields.reservedZero, h, hrsv']
  obtain ⟨hdefined, hzero⟩ := hchecks
  have hdecode : decode w = .illegal .familyUnsupported := by
    rw [decode, decodeFields_eq, hdefined, hzero, hfamily]
    rfl
  simp only [execute, hdecode, takeIllegal_eq_afterIllegal, code]

/-! ## Frames -/

/-- The seeds of the two families give every pair two checksums (40_crc.md R109). -/
theorem checksum_A_ne_checksum_B (d0 d1 : Byte) : checksum .A d0 d1 ≠ checksum .B d0 d1 := by
  obtain ⟨-, hne, -⟩ := Proofs.seedsDifferByConstant d0 d1
  exact hne.symm

theorem word16_getLsbD_13 (b0 b1 : Byte) : (word16 b0 b1).getLsbD 13 = b0.getLsbD 5 := by
  rw [word16, BitVec.getLsbD_append]
  rfl

theorem word16_toNat (b0 b1 : Byte) : (word16 b0 b1).toNat = b0.toNat * 256 + b1.toNat := toNat_append_eq_add b0 b1

theorem word16_right_inj (b0 : Byte) {b1 b1' : Byte} : word16 b0 b1 = word16 b0 b1' ↔ b1 = b1' := by
  rw [← BitVec.toNat_inj, ← BitVec.toNat_inj, word16_toNat, word16_toNat, Nat.add_left_cancel_iff]

/-- The family B frame 0xBE 0xEF 0x92 of the examples is valid (42_frame.md R142). -/
theorem checksum_B_BEEF : checksum .B 0xBE 0xEF = 0x92 := by decide +kernel

/-- The conversion of the example's raw code (42_frame.md R143, R145). -/
theorem valueSlot_temperature_B_BEEF :
    valueSlot 0x92 .temperature .B (word16 0xBE 0xEF) = ⟨0x92, 0x0000BEEF, 0x0055858E, 65535, 0x005585E4⟩ := by
  decide

/-! ## The effects of the frame commands -/

/-- The result group after a frame that is not valid: the computed checksum and nothing else (42_frame.md R141). -/
def invalidResults (k : Byte) : Results := ⟨false, false, false, false, emptySlot k, emptySlot 0x00⟩

/-- A one-frame command's results: `accept` writes into those of an invalid frame exactly if the frame is valid
(42_frame.md R140, R141). -/
theorem frameResults_eq_checksum (f : Family) (d0 d1 c : Byte) (accept : Results → Results) :
    frameResults f d0 d1 c accept =
      if checksum f d0 d1 = c then accept (invalidResults (checksum f d0 d1)) else invalidResults (checksum f d0 d1) := by
  rw [frameResults_eq, seed_eq_seedOf]
  rfl

/-- CHK3 writes the result group alone (42_frame.md R142). -/
theorem exec_chk3 (f : Family) (d0 d1 c : Byte) (s : State) : exec (.chk3 f d0 d1 c) s = .next (withResults s
    (if checksum f d0 d1 = c then ⟨true, false, false, false, rawSlot (checksum f d0 d1) (word16 d0 d1), emptySlot 0x00⟩
      else invalidResults (checksum f d0 d1))) := by
  rw [exec_eq, resultGroup, frameResults_eq_checksum]
  rfl

/-- CONVT writes the result group alone (42_frame.md R143). -/
theorem exec_convt (f : Family) (d0 d1 c : Byte) (s : State) : exec (.convt f d0 d1 c) s = .next (withResults s
    (if checksum f d0 d1 = c then
        ⟨true, false, false, false, valueSlot (checksum f d0 d1) .temperature f (word16 d0 d1), emptySlot 0x00⟩
      else invalidResults (checksum f d0 d1))) := by
  rw [exec_eq, resultGroup, frameResults_eq_checksum]
  rfl

/-- CONVH writes the result group alone (42_frame.md R144). -/
theorem exec_convh (f : Family) (d0 d1 c : Byte) (s : State) : exec (.convh f d0 d1 c) s = .next (withResults s
    (if checksum f d0 d1 = c then
        ⟨true, false, false, false, valueSlot (checksum f d0 d1) .humidity f (word16 d0 d1), emptySlot 0x00⟩
      else invalidResults (checksum f d0 d1))) := by
  rw [exec_eq, resultGroup, frameResults_eq_checksum]
  rfl

/-- HTRSTAT writes the result group alone (42_frame.md R146). -/
theorem exec_htrstat (s0 s1 c : Byte) (s : State) : exec (.htrstat s0 s1 c) s = .next (withResults s
    (if checksum .B s0 s1 = c then
        ⟨true, false, true, (word16 s0 s1).getLsbD 13, rawSlot (checksum .B s0 s1) (word16 s0 s1), emptySlot 0x00⟩
      else invalidResults (checksum .B s0 s1))) := by
  rw [exec_eq, resultGroup, frameResults_eq_checksum]
  rfl

/-- CONVTH on a frame whose first three bytes are in ARG writes the result group alone (42_frame.md R145). -/
theorem exec_convth {t0 t1 tc : Byte} {s : State} (harg : s.block.arg = t0 ++ t1 ++ tc) (h0 h1 hc : Byte) :
    exec (.convth h0 h1 hc) s = .next (withResults s
      (if checksum .B t0 t1 = tc ∧ checksum .B h0 h1 = hc then
          ⟨true, true, false, false, valueSlot (checksum .B t0 t1) .temperature .B (word16 t0 t1),
            valueSlot (checksum .B h0 h1) .humidity .B (word16 h0 h1)⟩
        else ⟨false, false, false, false, emptySlot (checksum .B t0 t1), emptySlot (checksum .B h0 h1)⟩)) := by
  rw [exec_eq, resultGroup, harg, combinedResults_append]
  rfl

/-- ARG is its three bytes (10_state.md R24). -/
theorem arg_eq_append (arg : BitVec 24) : arg = arg.extractLsb' 16 8 ++ arg.extractLsb' 8 8 ++ arg.extractLsb' 0 8 := by
  apply BitVec.eq_of_toNat_eq
  simp only [toNat_append_eq_add, BitVec.extractLsb'_toNat, Nat.shiftRight_eq_div_pow]
  omega

/-- After an invalid frame, CONVT, CONVH and CHK3 leave the computed checksum alone (42_frame.md R150). -/
theorem exec_of_invalid_frame {f : Family} {d0 d1 c : Byte} (hne : checksum f d0 d1 ≠ c) (s : State) {i : Instr}
    (hi : i ∈ [Instr.convt f d0 d1 c, .convh f d0 d1 c, .chk3 f d0 d1 c]) :
    exec i s = .next (withResults s (invalidResults (checksum f d0 d1))) := by
  simp only [List.mem_cons, List.not_mem_nil, or_false] at hi
  rcases hi with rfl | rfl | rfl
  · rw [exec_convt, if_neg hne]
  · rw [exec_convh, if_neg hne]
  · rw [exec_chk3, if_neg hne]

/-! ## What a result command leaves -/

/-- A slot that holds no reading is empty but for its checksum (10_state.md R34 (a)). -/
theorem Slot.Unfilled.eq_emptySlot {sl : Slot} (h : sl.Unfilled) : sl = emptySlot sl.crc := by
  obtain ⟨crc, raw, num, den, fx⟩ := sl
  obtain ⟨rfl, rfl, rfl, rfl⟩ := h
  rfl

/-- A result command leaves a consistent result group, whatever group it found (10_state.md R34). -/
theorem resultGroup_consistent_of_result {i : Instr} (h : i.isResult = true) (arg : BitVec 24) (r : Results) :
    (resultGroup i arg r).Consistent := by
  rw [resultGroup_of_result h arg r .empty]
  exact resultGroup_consistent Results.consistent_empty i arg

/-- CONVTH fills both slots or neither (42_frame.md R147). -/
theorem combinedResults_both_or_neither (arg : BitVec 24) (h0 h1 hc : Byte) :
    let r := combinedResults arg h0 h1 hc
    (r.v0 = true ∧ r.v1 = true ∧ r.slot0.den = 65535 ∧ r.slot1.den = 65535) ∨
      (r.v0 = false ∧ r.v1 = false ∧ r.slot0.den = 0 ∧ r.slot1.den = 0) := by
  rw [combinedResults_eq]
  split
  · exact .inl ⟨rfl, rfl, rfl, rfl⟩
  · exact .inr ⟨rfl, rfl, rfl, rfl⟩

/-- V0 after CHK3 tells whether the frame is valid (42_frame.md R142, 40_crc.md R104). -/
theorem chk3_v0 (f : Family) (d0 d1 c : Byte) (arg : BitVec 24) (r : Results) :
    (resultGroup (.chk3 f d0 d1 c) arg r).v0 = decide (checksum f d0 d1 = c) := by
  rw [resultGroup, frameResults_eq_checksum]
  by_cases h : checksum f d0 d1 = c
  · rw [if_pos h, decide_eq_true h]
    rfl
  · rw [if_neg h, decide_eq_false h]
    rfl

/-- The results depend on the command's word alone and, for CONVTH, on ARG (42_frame.md R149). -/
theorem resultGroup_eq_of_result {i : Instr} (h : i.isResult = true) {arg arg' : BitVec 24}
    (harg : (∃ h0 h1 hc, i = .convth h0 h1 hc) → arg = arg') (r r' : Results) :
    resultGroup i arg r = resultGroup i arg' r' := by
  rw [resultGroup_of_result h arg r r']
  by_cases hconvth : ∃ h0 h1 hc, i = .convth h0 h1 hc
  · rw [harg hconvth]
  · exact resultGroup_of_not_convth (fun h0 h1 hc hi => hconvth ⟨h0, h1, hc, hi⟩) arg arg' r'

end Sys2Proof.Machine

namespace Sys2Proof.Proofs
open Sys2Proof.Machine Sys2Proof.Spec

/-- Settles O42: the effect by its law; no byte is the checksum of a pair for both families. -/
theorem chkThreeLatchesValidFrames : Obligations.ChkThreeLatchesValidFrames := by
  refine ⟨fun f d0 d1 c => ?_, exec_chk3, fun w s hop hrsv => ?_, by decide +kernel,
    fun d0 d1 c ⟨hA, hB⟩ => ?_, fun s => ?_⟩
  · simp only [encode_toNat, Spec.opcode, famField, bytes]
    bv_omega
  · exact execute_of_rsv_ne_zero hop (by decide) hrsv s
  · exact checksum_A_ne_checksum_B d0 d1 (hA.trans hB.symm)
  · rw [exec_chk3, checksum_B_BEEF]
    rfl

/-- Settles O43: the effect by its law; the low bits do not change the masked code, and do change the raw code and the byte
fed last. -/
theorem convtConvertsValidFrames : Obligations.ConvtConvertsValidFrames := by
  obtain ⟨-, -, -, -, hlowBits, -⟩ := rawtConvertsToTemperature
  refine ⟨fun f d0 d1 c => ?_, exec_convt, fun w s hop hrsv => ?_, hlowBits,
    fun s d0 d1 d1' hne => ?_, fun s => ?_, ?_⟩
  · simp only [encode_toNat, Spec.opcode, famField, bytes]
    bv_omega
  · exact execute_of_rsv_ne_zero hop (by decide) hrsv s
  · rw [crc8Pair, crc8Pair, ne_eq, crc8Step_right_inj, ne_eq, word16_right_inj]
    exact ⟨hne, hne⟩
  · rw [exec_convt, checksum_B_BEEF, if_pos rfl, valueSlot_temperature_B_BEEF]
  · have hfx : (0x005585E4 : Word).toInt = 5604836 := by decide
    have hmasked : masked .B 0xBEEF = 48879 := by decide
    rw [hfx, value_temperature_B, hmasked]
    norm_num

/-- Settles O44: the effect by its law; the first and the last raw code have values below 0 and above 100. -/
theorem convhConvertsValidFrames : Obligations.ConvhConvertsValidFrames := by
  refine ⟨fun f d0 d1 c => ?_, exec_convh, fun w s hop hrsv => ?_, ⟨⟨0x0000, ?_⟩, 0xFFFF, ?_⟩,
    fun s => ?_, ?_⟩
  · simp only [encode_toNat, Spec.opcode, famField, bytes]
    bv_omega
  · exact execute_of_rsv_ne_zero hop (by decide) hrsv s
  · exact (value_humidity_A_thresholds 0x0000).1.2 (by decide)
  · exact (value_humidity_A_thresholds 0xFFFF).2.2 (by decide)
  · have hchecksum : checksum .A 0x68 0x3A = 0x7C := by decide +kernel
    have hslot : valueSlot 0x7C .humidity .A (word16 0x68 0x3A) = ⟨0x7C, 0x0000683A, 0x002CE358, 65536, 0x002CE358⟩ := by
      decide
    rw [exec_convh, hchecksum, if_pos rfl, hslot]
  · have hfx : (0x002CE358 : Word).toInt = 2941784 := by decide
    have hmasked : masked .A 0x683A = 26680 := by decide
    rw [hfx, value_humidity_A, hmasked]
    norm_num

/-- Settles O45: the effect by its law, ARG being its three bytes. -/
theorem convthConvertsBothWordsOrNeither : Obligations.ConvthConvertsBothWordsOrNeither := by
  refine ⟨fun h0 h1 hc => ?_, fun h0 h1 hc s => ?_, fun w s hop hrsv => ?_,
    fun w s hop hrsv hfam => ?_, fun s harg => ?_, ?_⟩
  · simp only [encode_toNat, Spec.opcode, famField, bytes]
    bv_omega
  · exact exec_convth (arg_eq_append s.block.arg) h0 h1 hc
  · exact execute_of_rsv_ne_zero hop (by decide) hrsv s
  · exact execute_of_familyUnsupported (.inl hop) hrsv hfam s
  · have hbytes : s.block.arg = (0xBE : Byte) ++ (0xEF : Byte) ++ (0x92 : Byte) := harg.trans (by decide)
    have hchecksum : checksum .B 0x62 0x2B = 0x61 := by decide +kernel
    have hslot : valueSlot 0x61 .humidity .B (word16 0x62 0x2B) = ⟨0x61, 0x0000622B, 0x002658CC, 65535, 0x002658F2⟩ := by
      decide
    rw [exec_convth hbytes, checksum_B_BEEF, hchecksum, if_pos ⟨rfl, rfl⟩, valueSlot_temperature_B_BEEF, hslot]
  · have hfx : (0x002658F2 : Word).toInt = 2513138 := by decide
    rw [hfx]
    norm_num

/-- Settles O46: the effect by its law; the examples by the checksums of their pairs and bit 13 of their words. -/
theorem htrstatDecodesTheHeaterBit : Obligations.HtrstatDecodesTheHeaterBit := by
  have hon : checksum .B 0x20 0x00 = 0x5D := by decide +kernel
  have hoff : checksum .B 0x80 0x10 = 0xE1 := by decide +kernel
  refine ⟨fun s0 s1 c => ?_, exec_htrstat, fun w s hop hrsv => ?_,
    fun w s hop hrsv hfam => ?_, fun s0 s1 => ⟨word16_getLsbD_13 s0 s1, word16_toNat s0 s1⟩,
    fun s => ⟨?_, ⟨_, exec_htrstat 0x80 0x10 0xE1 s, ?_⟩, ⟨_, exec_htrstat 0x20 0x00 0x5E s, ?_⟩⟩⟩
  · simp only [encode_toNat, Spec.opcode, famField, bytes]
    bv_omega
  · exact execute_of_rsv_ne_zero hop (by decide) hrsv s
  · exact execute_of_familyUnsupported (.inr hop) hrsv hfam s
  · rw [exec_htrstat, hon]
    rfl
  · rw [if_pos hoff]
    exact ⟨rfl, word16_getLsbD_13 0x80 0x10⟩
  · rw [hon, if_neg (by decide)]
    exact ⟨rfl, rfl, rfl, rfl⟩

/-- Settles O47: by the consistency of the result group; CONVTH by whether both frames are valid. -/
theorem resultCommandsLeaveNoPartialResult : Obligations.ResultCommandsLeaveNoPartialResult := by
  intro i s hi
  have hconsistent := resultGroup_consistent_of_result hi s.block.arg s.block.results
  refine ⟨_, exec_eq i s, fun hv0 => (hconsistent.unfilled0 hv0).eq_emptySlot,
    fun hv1 => (hconsistent.unfilled1 hv1).eq_emptySlot, ?_⟩
  rintro h0 h1 hc rfl
  exact combinedResults_both_or_neither s.block.arg h0 h1 hc

/-- Settles O48: all three tell whether the received byte is the checksum of the pair. -/
theorem frameCheckEqualsSingleBytePath : Obligations.FrameCheckEqualsSingleBytePath := by
  intro f d0 d1 c s
  have hvalid := chk3_v0 f d0 d1 c s.block.arg s.block.results
  refine ⟨_, _, _, exec_eq (.chk3 f d0 d1 c) s, execAll_crcinit_crcbyte_crcbyte f d0 d1 [.crccmp c] s,
    execAll_crcinit_crcbyte_crcbyte f d0 d1 [.crcbyte c] s, hvalid, ?_⟩
  exact (hvalid ▸ decide_eq_true_iff).trans crc8Step_eq_zero_iff.symm

/-- Settles O49: the result group is a function of the command and, for CONVTH, of ARG. -/
theorem resultsDependOnlyOnTheCommand : Obligations.ResultsDependOnlyOnTheCommand :=
  fun i s s' hi harg => ⟨_, _, exec_eq i s, exec_eq i s', resultGroup_eq_of_result hi harg _ _⟩

/-- Settles O50: an invalid frame leaves the computed checksum alone. -/
theorem invalidFramesGiveSentinels : Obligations.InvalidFramesGiveSentinels :=
  fun _ _ _ _ s hne _ hi => ⟨_, exec_of_invalid_frame hne.symm s hi, rfl, rfl, rfl, rfl, rfl⟩

end Sys2Proof.Proofs
end

section
/-!
SUPPORT and PROOFS for 60_exceptions.md: what an illegal word does, what leaves a recorded error in place, and the statements
O11 and O54.
-/
namespace Sys2Proof.Machine
open Sys2Proof.Spec

/-- A word that decodes to no command has the illegal-command outcome (60_exceptions.md R161). -/
theorem execute_of_illegal {w : Word} {c : Cause} (hd : decode w = .illegal c) (s : State) :
    execute w s = .next (afterIllegal (code c) s) := by
  simp only [execute, hd, takeIllegal_eq_afterIllegal]

/-- ECODE of a cause is 1, 2 or 3 (60_exceptions.md R162). -/
theorem code_mem (c : Cause) : code c ∈ [(1 : BitVec 4), 2, 3] := by cases c <;> decide

/-- Once ERR is set, an illegal command leaves the code that is recorded (60_exceptions.md R163). -/
theorem ecodeAfterIllegal_of_err {err : Bool} (h : err = true) (ecode : BitVec 4) (c : Cause) :
    ecodeAfterIllegal err ecode c = ecode := if_pos h

/-- A recorded error stays unless the access is a STATUS write with bit 7 = 1 (60_exceptions.md R164). -/
theorem AccessEffect.clears_or_keeps_error {s : State} {a : Access} {b : Block} (he : AccessEffect s a b)
    (herr : s.block.err = true) :
    (∃ v, a = writeAt s 0x08 v ∧ v.getLsbD 7 = true) ∨ (b.err = true ∧ b.ecode = s.block.ecode) := by
  cases he with
  | unchanged | command | argWrite => exact .inr ⟨herr, rfl⟩
  | illegal => exact .inr ⟨rfl, ecodeAfterIllegal_of_err herr _ _⟩
  | @errorClear v hv => exact .inl ⟨v, rfl, hv⟩

/-- A write to STATUS with bit 7 = 1 clears ERR and ECODE (20_memory.md R54). -/
theorem writeReg_status_of_clearsError {v : Word} (hv : clearsError v = true) (s : State) :
    writeReg .status v s = .next (clearError s) := by
  rw [writeReg, if_pos hv]

end Sys2Proof.Machine

namespace Sys2Proof.Proofs
open Sys2Proof.Machine Sys2Proof.Spec

/-- Settles O11: the CMD write executes its word, and an illegal word has the outcome of `afterIllegal`. -/
theorem illegalCommandSetsOnlyErrAndEcode : Obligations.IllegalCommandSetsOnlyErrAndEcode :=
  fun s w c hr hd => ⟨(step_issue_writeAt hr .cmd w).trans (execute_of_illegal hd s), code_mem c⟩

/-- Settles O54: a command neither reads nor writes ERR and ECODE (`blockAfter`), and of the effects an access can have only
the STATUS write with bit 7 = 1 takes a recorded error away. -/
theorem errDoesNotBlockAndHasOneClear : Obligations.ErrDoesNotBlockAndHasOneClear := by
  refine ⟨fun i s e k => ⟨_, exec_eq_blockAfter i s, exec_eq_blockAfter i _⟩, fun s t a rest hp h herr hcleared => ?_,
    fun s v hr hv => ⟨_, (step_issue_writeAt hr .status v).trans (writeReg_status_of_clearsError hv s), rfl⟩,
    fun s => ⟨rfl, rfl⟩⟩
  rcases (step_accessEffect hp h).clears_or_keeps_error herr with hclear | ⟨herr', hecode⟩
  · exact hclear
  · rcases hcleared with herr0 | ⟨hne, hecode0⟩
    · exact Bool.noConfusion (herr'.symm.trans herr0)
    · exact absurd (hecode.symm.trans hecode0) hne

end Sys2Proof.Proofs
end

section
/-!
SUPPORT and PROOFS for 70_reset_and_hazards.md: what the block holds right after reset and the statement O7.
-/
namespace Sys2Proof.Machine

/-- Right after reset the block holds its reset values, in any window (70_reset_and_hazards.md R180). -/
@[simp] theorem State.resetAt_block (n : Nat) : (State.resetAt n).block = .reset := rfl

/-- The empty value of a slot, register by register (10_state.md R33). -/
theorem Slot.empty_eq : Slot.empty = ⟨0x00, 0xFFFFFFFF, 0x80000000, 0, 0x80000000⟩ := rfl

/-- The empty value of the result group, register by register (10_state.md R33). -/
theorem Results.empty_eq : Results.empty =
    ⟨false, false, false, false, ⟨0x00, 0xFFFFFFFF, 0x80000000, 0, 0x80000000⟩,
      ⟨0x00, 0xFFFFFFFF, 0x80000000, 0, 0x80000000⟩⟩ := by
  rw [Results.empty, Slot.empty_eq]

/-- The two forms of a reset leave one and the same block, whatever the window and the state before
(70_reset_and_hazards.md R180). -/
theorem Block.eq_reset_of_mem_resets {n : Nat} {s : State} {b : Block}
    (hb : b ∈ [(State.resetAt n).block, s.releaseReset.block]) : b = .reset := by
  rw [State.resetAt_block, State.releaseReset_block] at hb
  simpa using hb

end Sys2Proof.Machine

namespace Sys2Proof.Proofs
open Sys2Proof.Machine Sys2Proof.Spec

/-- Settles O7: both forms of a reset leave `Block.reset`, whose fields are R180's values and whose result group is R33's
empty one. -/
theorem resetGivesEveryStateItsValue : Obligations.ResetGivesEveryStateItsValue := by
  intro n s b hb
  obtain rfl := Block.eq_reset_of_mem_resets hb
  exact ⟨rfl, rfl, rfl, rfl, rfl, Results.empty_eq, s.releaseReset_resetLine⟩

end Sys2Proof.Proofs
end

section
/-!
SUPPORT and PROOFS for 95_test_vectors.md: what an illegal word leaves right after reset, and the statements O1 and O12 about
the words written out there.
-/
namespace Sys2Proof.Machine
open Sys2Proof.Spec

/-- The block after an illegal command that finds no recorded error (60_exceptions.md R161). -/
theorem afterIllegal_block_of_no_err {s : State} (h : s.block.err = false) (k : BitVec 4) :
    (afterIllegal k s).block = { s.block with err := true, ecode := k } := by
  rw [afterIllegal, if_pos h]

/-- With ERR alone set besides ECODE, STATUS is bit 7 and the code from bit 8 on (10_state.md R25). -/
theorem statusWord_reset_with_error (k : BitVec 4) :
    statusWord { Block.reset with err := true, ecode := k } = (0x80 : Word) ||| k.setWidth 32 <<< 8 := by
  simp [statusWord, Block.reset, Results.empty, flagWord]

/-- An illegal word written to CMD right after reset sets ERR and its cause's code and nothing else, in any window
(60_exceptions.md R161). -/
theorem step_illegal_from_reset (n : Nat) {w : Word} {c : Cause} (hd : decode w = .illegal c) :
    ∃ t, step (issue (writeAt (.resetAt n) 0x00 w) (.resetAt n)) = .next t ∧
      t.block = { Block.reset with err := true, ecode := code c } :=
  ⟨_, (step_issue_writeAt (s := .resetAt n) rfl .cmd w).trans (execute_of_illegal hd _), afterIllegal_block_of_no_err rfl _⟩

end Sys2Proof.Machine

namespace Sys2Proof.Proofs
open Sys2Proof.Machine Sys2Proof.Spec

/-- Settles O1: a word decodes to a command exactly if it is that command's encoding, and the encodings are computed. -/
theorem writtenOutWordsDecode : Obligations.WrittenOutWordsDecode := by
  simp only [Obligations.WrittenOutWordsDecode, decode_eq_command_iff]
  decide

/-- Settles O12: each word of the table decodes to a cause whose code stands in the table's STATUS, and an illegal word of
that cause leaves this STATUS. -/
theorem illegalWordsFromResetGiveTheirStatus : Obligations.IllegalWordsFromResetGiveTheirStatus := by
  intro n p hp
  have hcause : ∃ c ∈ [Cause.reservedOpcode, .reservedField, .familyUnsupported],
      decode p.1 = .illegal c ∧ (0x80 : Word) ||| (code c).setWidth 32 <<< 8 = p.2 := by
    -- Row by row: on the bounded `∀` itself `decide` would enumerate all pairs of words.
    revert p
    simp only [List.forall_mem_cons, List.not_mem_nil, false_imp_iff, implies_true]
    decide
  obtain ⟨c, -, hdecode, hstatus⟩ := hcause
  obtain ⟨t, hstep, hblock⟩ := step_illegal_from_reset n hdecode
  refine ⟨t, hstep, by rw [hblock], ?_⟩
  rw [hblock, ← hstatus]
  exact statusWord_reset_with_error (code c)

end Sys2Proof.Proofs
end
